-- ==== Sys2Proof/Word.lean ====
section
/-! DEFINITION. The word types of the record framer and the byte lanes of a word. -/

namespace Sys2Proof

/-- One byte on a channel, in a scratch buffer or in PBUF. -/
abbrev Byte := BitVec 8

/-- A 32-bit register, CRC value or bus datum (rule R8). -/
abbrev Word := BitVec 32

/-- A 64-bit length or count (rule R8). -/
abbrev Word64 := BitVec 64

end Sys2Proof
end

