-- ==== Sys2Proof/Syntax.lean ====
section
/-! DEFINITION. The commands of the framer (rule R59) and the host-bus accesses that reach it (rule R36),
and the lines of a host program (rules R61 and R62). -/

namespace Sys2Proof

/-- The seven commands, one constructor per row of the opcode table. A command has no operand in its
word (rule R58): every operand stands in a fixed register or in PBUF. -/
inductive Instr where
  /-- Raw CRC32C of PBUF[0..ARG_LEN) (rule R68). -/
  | crc32c
  /-- The masking stage applied to ARG_CRC (rule R69). -/
  | mask
  /-- ARG_LEN as eight little-endian bytes in HDR[0..8) (rule R72). -/
  | lenenc
  /-- The 12-byte header of ARG_LEN in HDR (rule R73). -/
  | hdrasm
  /-- The record length ARG_LEN + 16 (rule R74). -/
  | reclen
  /-- Read and validate one frame from the input channel (rule R76). -/
  | decode
  /-- Write one frame to the output channel (rule R90). -/
  | encode
deriving DecidableEq, Repr

/-- The size of a host-bus access, in {1, 2, 4} bytes (rule R36). -/
inductive BusSize where
  | b1
  | b2
  | b4
deriving DecidableEq, Repr

/-- The number of bytes of an access size. -/
def BusSize.bytes : BusSize → Nat
  | .b1 => 1
  | .b2 => 2
  | .b4 => 4

/-- One host-bus access (rule R36): Read(off, size) or Write(off, size, v). -/
inductive Access where
  | read (off : Word) (size : BusSize)
  | write (off : Word) (size : BusSize) (v : Word)
deriving DecidableEq, Repr

/-- One line of a host program: the six access forms of rule R61 and the pseudo-instructions of rule
R62. -/
inductive HostLine where
  | wr32 (off v : Word)
  | wr16 (off v : Word)
  | wr8 (off v : Word)
  | rd32 (off : Word)
  | rd16 (off : Word)
  | rd8 (off : Word)
  | command (i : Instr)
  | setlen (n : Word64)
  | setcrc (c : Word)
  | wait
  | load (k : Word) (bytes : List Byte)
  | ienable
  | idisable
deriving DecidableEq, Repr

end Sys2Proof
end

