-- ==== Sys2Proof/WellFormed.lean ====
section
/-! DEFINITION. What the spec calls well formed: a command, a command word, a host-bus access. -/

namespace Sys2Proof

/-- Every command is well formed: it has no operand that could be out of range (rule R58). -/
def Instr.wf : Instr → Bool
  | .crc32c | .mask | .lenenc | .hdrasm | .reclen | .decode | .encode => true

/-- RSVD, bits 31:8 of a command word, must be 0 (rule R57). -/
def CommandWord.rsvdZero (w : Word) : Bool := w.extractLsb' 8 24 == 0#24

/-- OPC, bits 7:0 of a command word, is one of the seven opcodes 0x01 .. 0x07 (rule R59). -/
def CommandWord.opcAssigned (w : Word) : Bool :=
  let opc := w.extractLsb' 0 8
  0x01#8 ≤ opc && opc ≤ 0x07#8

/-- A legal command word (rules R57 and R60). -/
def CommandWord.wf (w : Word) : Bool := CommandWord.rsvdZero w && CommandWord.opcAssigned w

/-- A write carries a value of its own size; a read carries none (rule R36). -/
def Access.wf : Access → Bool
  | .read _ _ => true
  | .write _ size v => v.toNat < 2 ^ (8 * size.bytes)

end Sys2Proof
end

