-- ==== Sys2Proof/Decode.lean ====
section
/-! DEFINITION. The command decoder, total on every word and every byte sequence, and the encoder. -/

namespace Sys2Proof

/-- Why a command word is illegal (rule R60), or is no command word at all (rule R57). -/
inductive DecodeError where
  /-- RSVD is not 0. -/
  | reservedFieldNotZero
  /-- OPC is 0x00 or in 0x08 .. 0xFF. -/
  | unassignedOpcode (opc : Byte)
  /-- Not the four bytes of a command word. -/
  | notFourBytes (n : Nat)
deriving DecidableEq, Repr

/-- What decoding answers: a command, or the named reason that there is none. -/
inductive Decoded where
  | command (i : Instr)
  | illegal (e : DecodeError)
deriving DecidableEq, Repr

/-- The opcode map (rule R59). -/
def decodeOpcode (opc : Byte) : Option Instr :=
  if opc = 0x01#8 then some .crc32c
  else if opc = 0x02#8 then some .mask
  else if opc = 0x03#8 then some .lenenc
  else if opc = 0x04#8 then some .hdrasm
  else if opc = 0x05#8 then some .reclen
  else if opc = 0x06#8 then some .decode
  else if opc = 0x07#8 then some .encode
  else none

/-- Decoding a command word in full (rules R57 and R60): OPC in bits 7:0, RSVD in bits 31:8. -/
def decodeWord (w : Word) : Decoded :=
  if w.extractLsb' 8 24 = 0#24 then
    match decodeOpcode (w.extractLsb' 0 8) with
    | some i => .command i
    | none => .illegal (.unassignedOpcode (w.extractLsb' 0 8))
  else .illegal .reservedFieldNotZero

/-- Decoding the four byte lanes of a command word, the byte at offset 0x000 first (rule R36). -/
def decode : List Byte → Decoded
  | [b0, b1, b2, b3] => decodeWord (b3 ++ b2 ++ b1 ++ b0)
  | bs => .illegal (.notFourBytes bs.length)

/-- The opcode of a command (rule R59). -/
def opcode : Instr → Byte
  | .crc32c => 0x01#8
  | .mask => 0x02#8
  | .lenenc => 0x03#8
  | .hdrasm => 0x04#8
  | .reclen => 0x05#8
  | .decode => 0x06#8
  | .encode => 0x07#8

/-- The command word of a command: RSVD = 0 above the opcode (rules R57 and R59). -/
def encodeWord (i : Instr) : Word := 0#24 ++ opcode i

/-- The four byte lanes of a command's word, the byte at offset 0x000 first (rule R36). -/
def encode (i : Instr) : List Byte := [opcode i, 0#8, 0#8, 0#8]

/-- The 32-bit word the bus carries when an instruction of `nbits` bits is `w`: every bit above
`nbits` is 0. -/
def tableWord (nbits w : Nat) : Word := BitVec.ofNat 32 (w % 2 ^ nbits)

/-- The command the decoder reads from an opcode-table row's bits. -/
def decodeTableWord (nbits w : Nat) : Option Instr :=
  match decodeWord (tableWord nbits w) with
  | .command i => some i
  | .illegal _ => none

end Sys2Proof
end

