-- ==== Sys2Proof/Config.lean ====
section
/-! DEFINITION. The two open parameters of the hardware (rules R6 and R7), fixed for its life. -/

namespace Sys2Proof

/-- FOOTER_POLICY (rule R7): what DECODE does when end-of-stream arrives inside the footer. -/
inductive FooterPolicy where
  | strict
  | sourceCompat
deriving DecidableEq, Repr

/-- The largest PBUF_BYTES that rule R6 allows: the PBUF window fits in the 32-bit offset space. -/
abbrev Config.maxPbufBytes : Nat := 2 ^ 32 - 0x1000

/-- The parameters the spec leaves OPEN. State carries them, so that a statement about every state
is a statement about every value of them; no step changes them (log entry 2). -/
structure Config where
  /-- PBUF_BYTES, a natural number in 0 .. 2^32 - 0x1000 (rule R6). -/
  pbufBytes : Fin (Config.maxPbufBytes + 1)
  /-- FOOTER_POLICY (rule R7). -/
  footerPolicy : FooterPolicy
deriving DecidableEq, Repr

/-- DESIGN CHOICE (log entry 2): the values State.reset carries. FOOTER_POLICY has the spec's own
default (rule R7); PBUF_BYTES = 16 is what the vectors of 95_test_vectors.md assume. -/
def Config.default : Config := { pbufBytes := 16, footerPolicy := .strict }

end Sys2Proof
end

