-- ==== Sys2Proof/Machine/State.lean ====
section
/-! DEFINITION. Everything the spec gives the machine to hold, as plain data, and its reset values. -/

namespace Sys2Proof.Machine

/-- The sequencer's place in a command (rule R29). -/
inductive Seq where
  | idle
  | pure
  | decHdr
  | decPay
  | decFtr
  | encStart
  | encHdr
  | encPay
  | encFtr
deriving DecidableEq, Repr

/-- The result codes of rule R99 that the framer writes; codes 8 to 15 are never written. -/
inductive ResultCode where
  | ok
  | endOfStream
  | malformedStream
  | checksumMismatch
  | truncatedRecord
  | ioFailure
  | lengthUnsupported
  | illegalCommand
deriving DecidableEq, Repr

/-- The fields of STATUS (rule R16). Reserved bits have no storage: they read 0 and are never set. -/
structure Status where
  busy   : Bool
  done   : Bool
  valid  : Bool
  ovr    : Bool
  carry  : Bool
  crcsel : Bool
  rc     : ResultCode
  hdrCnt : BitVec 4
  ftrCnt : BitVec 3
deriving DecidableEq, Repr

/-- An answer of the input channel to ChanRead() (rule R48). -/
inductive ReadAnswer where
  | byte (b : Byte)
  | eof
  | fail
deriving DecidableEq, Repr

/-- An answer of the output channel to ChanWrite(b) (rule R49). -/
inductive WriteAnswer where
  | ok
  | fail
deriving DecidableEq, Repr

/-- The bus's answer to a host access (rules R36 and R43). A value is zero-extended to 32 bits. -/
inductive BusResponse where
  | ok
  | value (size : BusSize) (v : Word)
  | busError
deriving DecidableEq, Repr

/-- One entry of the agenda: which agent takes a step (rule R13), and what it does. The last two are
the environment's: from then on the channel answers as listed (log entry 4). -/
inductive Event where
  | host (a : Access)
  | sequencer
  | reset
  | connectInput (answers : List ReadAnswer)
  | connectOutput (answers : List WriteAnswer)
deriving DecidableEq, Repr

/-- PBUF: its written bytes as (index, byte) cells, indices strictly rising. An index with no cell
has never been written since power-up (the W flags of rule R32) and reads as no value. -/
abbrev Memory := List Host.Cell

/-- The state of the machine. -/
structure State where
  /-- PBUF_BYTES and FOOTER_POLICY (rules R6 and R7). -/
  cfg         : Config
  /-- STATUS (rule R16). -/
  status      : Status
  /-- CTRL.IE (rule R18). -/
  ie          : Bool
  /-- ARG_LEN, the pair ARG_LEN_HI and ARG_LEN_LO (rule R20). -/
  argLen      : Word64
  /-- ARG_CRC (rule R21). -/
  argCrc      : Word
  /-- RESULT, the pair RESULT_HI and RESULT_LO (rule R22). -/
  result      : Word64
  /-- FRM_LEN, also the sequencer's L (rules R23 and R30). -/
  frmLen      : Word64
  /-- PAY_CNT (rule R24). -/
  payCnt      : Word64
  /-- CRC_STORED (rule R25). -/
  crcStored   : Word
  /-- CRC_COMPUTED (rule R25). -/
  crcComputed : Word
  /-- HDR, the header scratch buffer (rule R27). -/
  hdr         : Vector Byte 12
  /-- FTR, the footer scratch buffer (rule R27). -/
  ftr         : Vector Byte 4
  /-- seq (rule R29). -/
  seq         : Seq
  /-- OP, the opcode latched at issue (rule R30). -/
  op          : Byte
  /-- ACC, the running CRC of DECODE (rule R30). -/
  acc         : Word
  /-- PBUF and the W flags (rules R26 and R32). -/
  mem         : Memory
  /-- What the input channel has ready to answer, oldest first (rule R48). -/
  rx          : List ReadAnswer
  /-- What the output channel has ready to answer, oldest first (rule R49). -/
  tx          : List WriteAnswer
  /-- The bytes committed to the output channel, in order (rules R49 and R51). -/
  sent        : List Byte
  /-- The bus's answer to the last host access (log entry 6). -/
  response    : Option BusResponse
  /-- Which agents move next, in order (rule R13, log entry 1). -/
  agenda      : List Event
deriving DecidableEq, Repr

/-- What stops the machine. -/
inductive Fault where
  /-- Raised by a host read of PBUF, by CRC32C and by ENCODE: PBUF[i] has not been written since
  power-up (rule R32). Safe: the chip returns some byte, the model gives it no value. -/
  | unwrittenRead (i : Nat)
deriving DecidableEq, Repr

/-- What the model has no meaning for. -/
inductive Refusal where
  /-- Raised by exec's arm of an instruction that has no meaning yet. Safe. -/
  | notModelled (mnemonic : String)
  /-- Raised by a sequencer step in a state that no run reaches: a byte counter beyond its buffer,
  or a busy machine whose seq and OP name no command in progress. Safe (log entry 7). -/
  | sequencerOutsideSpec
deriving DecidableEq, Repr

/-- STATUS after reset: every field 0 (rule R33). -/
def Status.reset : Status :=
  { busy := false, done := false, valid := false, ovr := false, carry := false, crcsel := false,
    rc := .ok, hdrCnt := 0, ftrCnt := 0 }

/-- The machine with parameters `c` after power-up and reset (rules R33 and R114): every register
at its reset value, no PBUF byte written, nothing on the channels and nobody to move. -/
def State.resetWith (c : Config) : State :=
  { cfg := c, status := Status.reset, ie := false, argLen := 0, argCrc := 0, result := 0,
    frmLen := 0, payCnt := 0, crcStored := 0, crcComputed := 0,
    hdr := Vector.replicate 12 0, ftr := Vector.replicate 4 0,
    seq := .idle, op := 0, acc := 0, mem := [], rx := [], tx := [], sent := [],
    response := none, agenda := [] }

/-- The machine right after reset, with the default parameters of log entry 2. -/
def State.reset : State := State.resetWith Config.default

end Sys2Proof.Machine
end

