-- ==== Sys2Proof/Machine/Operands.lean ====
section
/-! DEFINITION. The format functions of rule R11, the CRC32C engine (R64), the masking stage (R66)
and the operands of each command (R58). -/

namespace Sys2Proof.Machine

/-- One bit of the reflected CRC32C register (rule R64, the body of the repeat). -/
def crcBit (c : Word) : Word :=
  if c.getLsbD 0 then (c >>> 1) ^^^ 0x82F63B78#32 else c >>> 1

/-- crc_step (rule R64). -/
def crcStep (c : Word) (b : Byte) : Word :=
  Nat.repeat crcBit 8 (c ^^^ b.setWidth 32)

/-- The CRC register before the first byte (rules R64 and R65). -/
def crcInit : Word := 0xFFFFFFFF#32

/-- The CRC register after the bytes `p` (rule R65). -/
def crcFold (p : List Byte) : Word := p.foldl crcStep crcInit

/-- crc32c (rule R64). -/
def crc32c (p : List Byte) : Word := crcFold p ^^^ 0xFFFFFFFF#32

/-- rotr32(c, 15) (rule R66). -/
def rotr15 (c : Word) : Word := c >>> 15 ||| c <<< 17

/-- mask (rule R66); the carry out of bit 31 is discarded. -/
def mask (c : Word) : Word := rotr15 c + 0xA282EAD8#32

/-- le8 (rules R11 and R70): the least significant byte first. -/
def le8 (l : Word64) : Vector Byte 8 :=
  #v[l.extractLsb' 0 8, l.extractLsb' 8 8, l.extractLsb' 16 8, l.extractLsb' 24 8,
     l.extractLsb' 32 8, l.extractLsb' 40 8, l.extractLsb' 48 8, l.extractLsb' 56 8]

/-- le4 (rule R11). -/
def le4 (v : Word) : Vector Byte 4 :=
  #v[v.extractLsb' 0 8, v.extractLsb' 8 8, v.extractLsb' 16 8, v.extractLsb' 24 8]

/-- rdle8 (rules R11 and R70). -/
def rdle8 (s : Vector Byte 8) : Word64 :=
  s[7] ++ s[6] ++ s[5] ++ s[4] ++ s[3] ++ s[2] ++ s[1] ++ s[0]

/-- rdle4 (rule R11). -/
def rdle4 (s : Vector Byte 4) : Word := s[3] ++ s[2] ++ s[1] ++ s[0]

/-- HDR[0..8), the length field of a header. -/
def hdrLen (h : Vector Byte 12) : Vector Byte 8 :=
  #v[h[0], h[1], h[2], h[3], h[4], h[5], h[6], h[7]]

/-- HDR[8..12), the length checksum of a header. -/
def hdrCrc (h : Vector Byte 12) : Vector Byte 4 := #v[h[8], h[9], h[10], h[11]]

/-- Twelve header bytes from eight and four. -/
def joinHdr (e : Vector Byte 8) (f : Vector Byte 4) : Vector Byte 12 :=
  #v[e[0], e[1], e[2], e[3], e[4], e[5], e[6], e[7], f[0], f[1], f[2], f[3]]

/-- lengthCrc (rule R71): the masked CRC32C of the eight length bytes. -/
def lengthCrc (l : Word64) : Word := mask (crc32c (le8 l).toList)

/-- header (rules R11 and R71). -/
def header (l : Word64) : Vector Byte 12 := joinHdr (le8 l) (le4 (lengthCrc l))

/-- footer (rule R11). -/
def footer (p : List Byte) : Vector Byte 4 := le4 (mask (crc32c p))

/-- frame (rule R11): header, payload, footer. -/
def frame (p : List Byte) : List Byte :=
  (header (BitVec.ofNat 64 p.length)).toList ++ p ++ (footer p).toList

/-- recordLength (rule R11), an exact natural number. -/
def recordLength (n : Nat) : Nat := 12 + n + 4

/-- The byte of PBUF at index `i`, or none where it was never written (rule R32). -/
def Memory.read : Memory → Nat → Option Byte
  | [], _ => none
  | c :: m, i => if c.1 = i then some c.2 else Memory.read m i

/-- PbufBytes(a, n) (rule R10): the bytes PBUF[a..a+n), or the lowest index of them that was never
written (rule R32). -/
def Memory.bytes (m : Memory) : Nat → Nat → Except Nat (List Byte)
  | _, 0 => .ok []
  | a, n + 1 =>
    match m.read a with
    | none => .error a
    | some b =>
      match Memory.bytes m (a + 1) n with
      | .error i => .error i
      | .ok bs => .ok (b :: bs)

/-- PBUF_BYTES (rule R6). -/
def State.pbufBytes (s : State) : Nat := s.cfg.pbufBytes.val

/-- The operand of CRC32C and ENCODE: the payload PbufBytes(0, n) (rules R20 and R58). -/
def State.payload (s : State) (n : Word64) : Except Nat (List Byte) := s.mem.bytes 0 n.toNat

end Sys2Proof.Machine
end

