-- ==== Sys2Proof/Machine/Flags.lean ====
section
/-! DEFINITION. Every way STATUS changes and is seen: the register word (R16), the clearing at issue
(R101), completion (R104), an illegal word (R102), an overrun (R103), the carry (R74), irq (R107). -/

namespace Sys2Proof.Machine

/-- The number of a result code (rule R99). -/
def ResultCode.code : ResultCode → BitVec 4
  | .ok => 0
  | .endOfStream => 1
  | .malformedStream => 2
  | .checksumMismatch => 3
  | .truncatedRecord => 4
  | .ioFailure => 5
  | .lengthUnsupported => 6
  | .illegalCommand => 7

/-- The STATUS register as the host reads it (rule R16): bits 31:19 and 7:6 read 0. -/
def Status.word (f : Status) : Word :=
  0#13 ++ f.ftrCnt ++ f.hdrCnt ++ f.rc.code ++ 0#2 ++ BitVec.ofBool f.crcsel
    ++ BitVec.ofBool f.carry ++ BitVec.ofBool f.ovr ++ BitVec.ofBool f.valid
    ++ BitVec.ofBool f.done ++ BitVec.ofBool f.busy

/-- What an accepted CMD write clears (rule R101). -/
def Status.clearForIssue (f : Status) : Status :=
  { f with done := false, valid := false, ovr := false, carry := false, crcsel := false,
           rc := .ok, hdrCnt := 0, ftrCnt := 0 }

/-- The STATUS part of finish(rc) (rule R104). -/
def Status.finish (f : Status) (rc : ResultCode) : Status :=
  { f with rc := rc, busy := false, done := true }

/-- STATUS.CARRY after RECLEN (rule R74): bit 64 of the exact sum of `n` and 16. -/
def reclenCarry (n : Word64) : Bool := (n.setWidth 65 + 16#65).getLsbD 64

/-- RESULT after RECLEN (rule R74): bits 63:0 of the exact sum. -/
def reclenResult (n : Word64) : Word64 := (n.setWidth 65 + 16#65).extractLsb' 0 64

/-- The interrupt output (rules R31 and R107). -/
def State.irq (s : State) : Bool := s.status.done && s.ie

end Sys2Proof.Machine
end

