-- ==== Sys2Proof/Machine/Ops.lean ====
section
/-! DEFINITION. The operations every command is built from: PBUF, the channels, issue, finish, reset. -/

namespace Sys2Proof.Machine

/-- The answer type of a step. -/
abbrev Result := Host.Outcome State Fault Refusal

/-- The canonical form of PBUF: indices strictly rising. An unwritten index reads as no value, so no
cell can equal what an unlisted index reads as. -/
abbrev Memory.wf (m : Memory) : Prop := m.Pairwise (fun c d => c.1 < d.1)

/-- Every cell lies in PBUF[0..n). -/
abbrev Memory.within (m : Memory) (n : Nat) : Prop := ∀ c ∈ m, c.1 < n

/-- PBUF[i] <- b, which also sets W[i] (rules R10, R32). -/
def Memory.write : Memory → Nat → Byte → Memory
  | [], i, b => [(i, b)]
  | c :: m, i, b =>
    if c.1 = i then (i, b) :: m
    else if i < c.1 then (i, b) :: c :: m
    else c :: Memory.write m i b

/-- MemWrite(a, n, v) (rule R10) of the byte lanes `bs` of v, lowest first. -/
def Memory.writeBytes : Memory → Nat → List Byte → Memory
  | m, _, [] => m
  | m, a, b :: bs => Memory.writeBytes (m.write a b) (a + 1) bs

/-- W[i] (rule R32). -/
def State.written (s : State) (i : Nat) : Bool := (s.mem.read i).isSome

/-- The little-endian value of byte lanes, zero-extended to 32 bits (rules R10 and R36). -/
def leWord : List Byte → Word
  | [] => 0
  | b :: bs => b.setWidth 32 ||| leWord bs <<< 8

/-- The lowest `n` byte lanes of a bus value, lowest first (rule R36). -/
def lanes : Nat → Word → List Byte
  | 0, _ => []
  | n + 1, v => v.extractLsb' 0 8 :: lanes n (v >>> 8)

/-- ChanRead() (rule R48): no answer yet (R50), or the answer and the channel after it. A byte is
consumed; at end-of-stream the channel stays there (rule R79, log entry 5). -/
def State.chanRead (s : State) : Option (ReadAnswer × State) :=
  match s.rx with
  | [] => none
  | .byte b :: r => some (.byte b, { s with rx := r })
  | .eof :: _ => some (.eof, s)
  | .fail :: r => some (.fail, { s with rx := r })

/-- ChanWrite(b) (rule R49): no answer yet (R50), or the answer and the channel after it. Ok commits
b after every byte committed before it; Fail commits nothing. -/
def State.chanWrite (s : State) (b : Byte) : Option (WriteAnswer × State) :=
  match s.tx with
  | [] => none
  | .ok :: r => some (.ok, { s with tx := r, sent := s.sent ++ [b] })
  | .fail :: r => some (.fail, { s with tx := r })

/-- One more header byte transferred (rules R16, R78, R93). -/
def State.countHdr (s : State) : State :=
  { s with status := { s.status with hdrCnt := s.status.hdrCnt + 1 } }

/-- One more payload byte transferred (rules R24, R82, R94). -/
def State.countPay (s : State) : State := { s with payCnt := s.payCnt + 1 }

/-- One more footer byte transferred (rules R16, R84, R95). -/
def State.countFtr (s : State) : State :=
  { s with status := { s.status with ftrCnt := s.status.ftrCnt + 1 } }

/-- finish(rc) (rule R104), the end of every command and the framer's only form of trap entry. -/
def State.finish (s : State) (rc : ResultCode) : State :=
  { s with status := s.status.finish rc, seq := .idle }

/-- The general issue action for a legal word (rule R101): the clearing, then OP, BUSY and seq. -/
def State.latch (s : State) (i : Instr) (q : Seq) : State :=
  { s with op := opcode i, status := { s.status.clearForIssue with busy := true }, seq := q }

/-- An illegal command word written while BUSY = 0 (rule R102), after the clearing of rule R101. -/
def State.illegalCommand (s : State) : State :=
  { s with status := { s.status.clearForIssue with rc := .illegalCommand, done := true } }

/-- A CMD write while BUSY = 1 is dropped (rule R103). -/
def State.dropCommand (s : State) : State :=
  { s with status := { s.status with ovr := true } }

/-- A command whose word selects one sequencer step in state PURE (R101, and the template of
40_checksum.md section 3): issued when the machine is free, run when it is the command in progress,
dropped when another command is (R103). -/
def oneStep (i : Instr) (effect : State → Result) (s : State) : Result :=
  if s.status.busy = false then .next (s.latch i .pure)
  else if s.seq = .pure ∧ s.op = opcode i then effect s
  else .next s.dropCommand

/-- Reset (rules R112 and R113): every state element takes its reset value; PBUF, the W flags and
the parameters stay, and so do the channels (what was consumed or committed stays so), the bus's
last answer and the agenda, which are outside the framer. -/
def State.applyReset (s : State) : State :=
  { State.resetWith s.cfg with
    mem := s.mem, rx := s.rx, tx := s.tx, sent := s.sent,
    response := s.response, agenda := s.agenda }

end Sys2Proof.Machine
end

