-- ==== Sys2Proof/Machine/Checksum.lean ====
section
/-! DEFINITION. The commands of the checksum engine: CRC32C (R68) and MASK (R69). -/

namespace Sys2Proof.Machine

/-- The step of CRC32C in state PURE (rule R68). -/
def crc32cStep (s : State) : Result :=
  if s.argLen.toNat > s.pbufBytes then .next (s.finish .lengthUnsupported)
  else
    match s.payload s.argLen with
    | .error i => .fault (.unwrittenRead i)
    | .ok p => .next ({ s with result := (crc32c p).setWidth 64 }.finish .ok)

/-- CRC32C (rule R68). -/
def execCrc32c (s : State) : Result := oneStep .crc32c crc32cStep s

/-- The step of MASK in state PURE (rule R69). -/
def maskStep (s : State) : Result :=
  .next ({ s with result := (mask s.argCrc).setWidth 64 }.finish .ok)

/-- MASK (rule R69). -/
def execMask (s : State) : Result := oneStep .mask maskStep s

end Sys2Proof.Machine
end

