-- ==== Sys2Proof/Machine/DecodeFrame.lean ====
section
/-! DEFINITION. DECODE (R76 to R89): one frame from the input channel into PBUF, one byte a step. -/

namespace Sys2Proof.Machine

/-- The issue action of DECODE (rule R77), after the general one. -/
def decodeIssue (s : State) : State :=
  { s.latch .decode .decHdr with frmLen := 0, payCnt := 0, crcStored := 0, crcComputed := 0 }

/-- The capacity check (rule R81), after a length check that passed. -/
def capacityCheck (s : State) : State :=
  if s.frmLen.toNat > s.pbufBytes then s.finish .lengthUnsupported
  else { s with acc := crcInit, seq := if s.frmLen = 0 then .decFtr else .decPay }

/-- What the length check records (rule R80): L and both values of the length checksum. -/
def compareLength (s : State) : State :=
  { s with frmLen := rdle8 (hdrLen s.hdr), crcStored := rdle4 (hdrCrc s.hdr),
           crcComputed := mask (crc32c (hdrLen s.hdr).toList),
           status := { s.status with crcsel := false } }

/-- The length check (rule R80), in the step that stores the twelfth header byte. -/
def lengthCheck (s : State) : State :=
  if (compareLength s).crcComputed = (compareLength s).crcStored then
    capacityCheck (compareLength s)
  else (compareLength s).finish .checksumMismatch

/-- What the data check records (rule R86): both values of the data checksum. -/
def compareData (s : State) : State :=
  { s with crcStored := rdle4 s.ftr, crcComputed := mask (s.acc ^^^ 0xFFFFFFFF#32),
           status := { s.status with crcsel := true } }

/-- PBUF[0..FRM_LEN) is a record (rules R16 and R86). -/
def accept (s : State) : State := { s with status := { s.status with valid := true } }

/-- The data check (rule R86). -/
def dataCheck (s : State) : State :=
  if (compareData s).crcComputed = (compareData s).crcStored then
    (accept (compareData s)).finish .ok
  else (compareData s).finish .checksumMismatch

/-- A header byte was stored and counted: the twelfth is followed by the length check (rule R78). -/
def headerStored (s : State) : State := if s.status.hdrCnt = 12 then lengthCheck s else s

/-- A byte arrives in state DEC_HDR (rule R78). -/
def headerByte (s : State) (b : Byte) : Result :=
  if s.status.hdrCnt.toNat < 12 then
    .next (headerStored
      (State.countHdr { s with hdr := s.hdr.setIfInBounds s.status.hdrCnt.toNat b }))
  else .refused .sequencerOutsideSpec

/-- A payload byte was stored and counted: the last is followed by the footer (rule R82). -/
def payloadStored (s : State) : State := if s.payCnt = s.frmLen then { s with seq := .decFtr } else s

/-- A byte arrives in state DEC_PAY (rule R82). -/
def payloadByte (s : State) (b : Byte) : Result :=
  if s.payCnt.toNat < s.pbufBytes then
    .next (payloadStored
      (State.countPay { s with mem := s.mem.write s.payCnt.toNat b, acc := crcStep s.acc b }))
  else .refused .sequencerOutsideSpec

/-- A footer byte was stored and counted: the fourth is followed by the data check (rule R84). -/
def footerStored (s : State) : State := if s.status.ftrCnt = 4 then dataCheck s else s

/-- A byte arrives in state DEC_FTR (rule R84). -/
def footerByte (s : State) (b : Byte) : Result :=
  if s.status.ftrCnt.toNat < 4 then
    .next (footerStored
      (State.countFtr { s with ftr := s.ftr.setIfInBounds s.status.ftrCnt.toNat b }))
  else .refused .sequencerOutsideSpec

/-- End-of-stream in state DEC_HDR (rule R79). -/
def headerEof (s : State) : State :=
  s.finish (if s.status.hdrCnt = 0 then .endOfStream else .malformedStream)

/-- End-of-stream in state DEC_FTR (rule R85). -/
def footerEof (s : State) : State :=
  match s.cfg.footerPolicy with
  | .strict => s.finish .truncatedRecord
  | .sourceCompat => dataCheck s

/-- A step of DECODE in progress: the channel's answer first (rule R106), then what the sequencer's
state does with it; with no answer the sequencer waits, all state kept (R50, R111). -/
def readingStep (onByte : State → Byte → Result) (onEof : State → State) (s : State) : Result :=
  match s.chanRead with
  | none => .next s
  | some (.fail, t) => .next (t.finish .ioFailure)
  | some (.eof, t) => .next (onEof t)
  | some (.byte b, t) => onByte t b

/-- DECODE (rule R76). -/
def execDecode (s : State) : Result :=
  if s.status.busy = false then .next (decodeIssue s)
  else
    match s.seq with
    | .decHdr => readingStep headerByte headerEof s
    | .decPay => readingStep payloadByte (fun t => t.finish .truncatedRecord) s
    | .decFtr => readingStep footerByte footerEof s
    | .idle | .pure | .encStart | .encHdr | .encPay | .encFtr => .next s.dropCommand

end Sys2Proof.Machine
end

