-- ==== Sys2Proof/Machine/EncodeFrame.lean ====
section
/-! DEFINITION. ENCODE (R90 to R98): the frame of PBUF[0..ARG_LEN) to the output channel, one byte a
step. -/

namespace Sys2Proof.Machine

/-- The frame's length and a payload count of 0 (rule R92). -/
def startFrame (s : State) : State := { s with frmLen := s.argLen, payCnt := 0 }

/-- The step in state ENC_START (rule R92): both checksums are fixed before the first byte. -/
def encodeStart (s : State) : Result :=
  if s.argLen.toNat > s.pbufBytes then .next ((startFrame s).finish .lengthUnsupported)
  else
    match s.payload s.argLen with
    | .error i => .fault (.unwrittenRead i)
    | .ok p =>
      .next { startFrame s with hdr := header s.argLen, ftr := footer p, seq := .encHdr }

/-- A header byte was committed and counted: after the twelfth comes the payload, or the footer where
L = 0 (rule R93). -/
def headerSent (s : State) : State :=
  if s.status.hdrCnt = 12 then { s with seq := if s.frmLen = 0 then .encFtr else .encPay } else s

/-- A payload byte was committed and counted: after the last comes the footer (rule R94). -/
def payloadSent (s : State) : State := if s.payCnt = s.frmLen then { s with seq := .encFtr } else s

/-- A footer byte was committed and counted: the fourth ends the command (rule R95). -/
def footerSent (s : State) : State := if s.status.ftrCnt = 4 then s.finish .ok else s

/-- A step of ENCODE that offers `b` to the output channel: on Ok the byte is committed and `onOk`
counts it; on Fail the command ends with nothing counted (rule R96); with no answer the sequencer
waits, all state kept (R50, R111). -/
def writingStep (b : Byte) (onOk : State → State) (s : State) : Result :=
  match s.chanWrite b with
  | none => .next s
  | some (.ok, t) => .next (onOk t)
  | some (.fail, t) => .next (t.finish .ioFailure)

/-- The step in state ENC_HDR (rule R93): HDR[HDR_CNT] is offered. -/
def encodeHeader (s : State) : Result :=
  match s.hdr[s.status.hdrCnt.toNat]? with
  | none => .refused .sequencerOutsideSpec
  | some b => writingStep b (fun t => headerSent t.countHdr) s

/-- The step in state ENC_PAY (rule R94): PBUF[PAY_CNT] is offered, untransformed. -/
def encodePayload (s : State) : Result :=
  if s.payCnt.toNat < s.pbufBytes then
    match s.mem.read s.payCnt.toNat with
    | none => .fault (.unwrittenRead s.payCnt.toNat)
    | some b => writingStep b (fun t => payloadSent t.countPay) s
  else .refused .sequencerOutsideSpec

/-- The step in state ENC_FTR (rule R95): FTR[FTR_CNT] is offered. -/
def encodeFooter (s : State) : Result :=
  match s.ftr[s.status.ftrCnt.toNat]? with
  | none => .refused .sequencerOutsideSpec
  | some b => writingStep b (fun t => footerSent t.countFtr) s

/-- ENCODE (rule R90). -/
def execEncode (s : State) : Result :=
  if s.status.busy = false then .next (s.latch .encode .encStart)
  else
    match s.seq with
    | .encStart => encodeStart s
    | .encHdr => encodeHeader s
    | .encPay => encodePayload s
    | .encFtr => encodeFooter s
    | .idle | .pure | .decHdr | .decPay | .decFtr => .next s.dropCommand

end Sys2Proof.Machine
end

