-- ==== Sys2Proof/Machine/Length.lean ====
section
/-! DEFINITION. The commands of the length encoder: LENENC (R72), HDRASM (R73) and RECLEN (R74). -/

namespace Sys2Proof.Machine

/-- The step of LENENC in state PURE (rule R72): HDR[8..12) keeps its bytes. -/
def lenencStep (s : State) : Result :=
  .next ({ s with hdr := joinHdr (le8 s.argLen) (hdrCrc s.hdr) }.finish .ok)

/-- LENENC (rule R72). -/
def execLenenc (s : State) : Result := oneStep .lenenc lenencStep s

/-- The step of HDRASM in state PURE (rule R73). -/
def hdrasmStep (s : State) : Result :=
  .next ({ s with hdr := header s.argLen,
                  result := (lengthCrc s.argLen).setWidth 64 }.finish .ok)

/-- HDRASM (rule R73). -/
def execHdrasm (s : State) : Result := oneStep .hdrasm hdrasmStep s

/-- The step of RECLEN in state PURE (rule R74). -/
def reclenStep (s : State) : Result :=
  .next ({ s with result := reclenResult s.argLen,
                  status := { s.status with carry := reclenCarry s.argLen } }.finish .ok)

/-- RECLEN (rule R74). -/
def execReclen (s : State) : Result := oneStep .reclen reclenStep s

end Sys2Proof.Machine
end

