-- ==== Sys2Proof/Machine/Dispatch.lean ====
section
/-! DEFINITION. One arm per command. exec i s is the next step of command i: its issue when the
machine is free, its sequencer step when it is the command in progress. -/

namespace Sys2Proof.Machine

open Sys2Proof

def exec (i : Instr) (s : State) : Host.Outcome State Fault Refusal :=
  match i with
  | .crc32c => Sys2Proof.Machine.execCrc32c s
  | .mask => Sys2Proof.Machine.execMask s
  | .lenenc => Sys2Proof.Machine.execLenenc s
  | .hdrasm => Sys2Proof.Machine.execHdrasm s
  | .reclen => Sys2Proof.Machine.execReclen s
  | .decode => Sys2Proof.Machine.execDecode s
  | .encode => Sys2Proof.Machine.execEncode s

end Sys2Proof.Machine
end

