-- ==== Sys2Proof/Machine/Registers.lean ====
section
/-! DEFINITION. The register map of rule R14: offsets, access, and the value each register reads as. -/

namespace Sys2Proof.Machine

/-- The mapped registers (rule R14). -/
inductive Reg where
  | cmd
  | status
  | ctrl
  | argLenLo
  | argLenHi
  | argCrc
  | resultLo
  | resultHi
  | frmLenLo
  | frmLenHi
  | payCntLo
  | payCntHi
  | crcStored
  | crcComputed
  | hdr0
  | hdr1
  | hdr2
  | ftr
deriving DecidableEq, Repr

/-- The byte offset of each register (rule R14). -/
def regOffset : Reg → Word
  | .cmd => 0x000#32
  | .status => 0x004#32
  | .ctrl => 0x008#32
  | .argLenLo => 0x010#32
  | .argLenHi => 0x014#32
  | .argCrc => 0x018#32
  | .resultLo => 0x020#32
  | .resultHi => 0x024#32
  | .frmLenLo => 0x028#32
  | .frmLenHi => 0x02C#32
  | .payCntLo => 0x030#32
  | .payCntHi => 0x034#32
  | .crcStored => 0x038#32
  | .crcComputed => 0x03C#32
  | .hdr0 => 0x040#32
  | .hdr1 => 0x044#32
  | .hdr2 => 0x048#32
  | .ftr => 0x04C#32

/-- Every mapped register, in the order of the map. -/
def allRegs : List Reg :=
  [.cmd, .status, .ctrl, .argLenLo, .argLenHi, .argCrc, .resultLo, .resultHi, .frmLenLo, .frmLenHi,
   .payCntLo, .payCntHi, .crcStored, .crcComputed, .hdr0, .hdr1, .hdr2, .ftr]

/-- The register at an offset; none where the offset is unmapped or not a multiple of 4 (rules R37
and R38). -/
def regAt (off : Word) : Option Reg := allRegs.find? (fun r => regOffset r == off)

/-- The low and the high half of a 64-bit register (rule R14). -/
def loHalf (v : Word64) : Word := v.extractLsb' 0 32
def hiHalf (v : Word64) : Word := v.extractLsb' 32 32

/-- The value a legal read returns (rules R14, R28, R37, R39). No read has a side effect (R44). -/
def readReg (s : State) : Reg → Word
  | .cmd => 0#32
  | .status => s.status.word
  | .ctrl => BitVec.setWidth 32 (BitVec.ofBool s.ie)
  | .argLenLo => loHalf s.argLen
  | .argLenHi => hiHalf s.argLen
  | .argCrc => s.argCrc
  | .resultLo => loHalf s.result
  | .resultHi => hiHalf s.result
  | .frmLenLo => loHalf s.frmLen
  | .frmLenHi => hiHalf s.frmLen
  | .payCntLo => loHalf s.payCnt
  | .payCntHi => hiHalf s.payCnt
  | .crcStored => s.crcStored
  | .crcComputed => s.crcComputed
  | .hdr0 => s.hdr[3] ++ s.hdr[2] ++ s.hdr[1] ++ s.hdr[0]
  | .hdr1 => s.hdr[7] ++ s.hdr[6] ++ s.hdr[5] ++ s.hdr[4]
  | .hdr2 => s.hdr[11] ++ s.hdr[10] ++ s.hdr[9] ++ s.hdr[8]
  | .ftr => rdle4 s.ftr

/-- A register write other than CMD's, by the access column of rule R14: the state after it, or none
where the bus answers BusError (an operand register while BUSY = 1, rule R42). CTRL ignores its
reserved bits (R18); a read-only register ignores the write (R39). -/
def writeReg (s : State) (r : Reg) (v : Word) : Option State :=
  match r with
  | .ctrl => some { s with ie := v.getLsbD 0 }
  | .argLenLo => if s.status.busy then none else some { s with argLen := hiHalf s.argLen ++ v }
  | .argLenHi => if s.status.busy then none else some { s with argLen := v ++ loHalf s.argLen }
  | .argCrc => if s.status.busy then none else some { s with argCrc := v }
  | .cmd | .status | .resultLo | .resultHi | .frmLenLo | .frmLenHi | .payCntLo | .payCntHi
  | .crcStored | .crcComputed | .hdr0 | .hdr1 | .hdr2 | .ftr => some s

end Sys2Proof.Machine
end

