-- ==== Sys2Proof/Machine/Bus.lean ====
section
/-! DEFINITION. The host bus (R36 to R45) and the CMD write that issues a command (R101 to R103). -/

namespace Sys2Proof.Machine

/-- The first offset of the PBUF window (rule R14). -/
def pbufBase : Nat := 0x1000

/-- The offset lies in the register region 0x000 .. 0xFFF (rule R37). -/
def inRegisterRegion (off : Word) : Bool := off.toNat < pbufBase

/-- A legal PBUF access (rule R40): natural alignment, inside the window. -/
def pbufLegal (s : State) (off : Word) (size : BusSize) : Bool :=
  pbufBase ≤ off.toNat && off.toNat % size.bytes == 0
    && off.toNat + size.bytes ≤ pbufBase + s.pbufBytes

/-- The register a legal register-region access names (rule R37): four bytes at a mapped offset. -/
def regAccess (off : Word) (size : BusSize) : Option Reg :=
  if size = .b4 then regAt off else none

/-- The bus answers `a` to the host (rules R36 and R43). -/
def State.respond (s : State) (a : BusResponse) : State := { s with response := some a }

/-- A host read (rules R37 to R41): it changes nothing but the host's answer (R44). -/
def hostRead (s : State) (off : Word) (size : BusSize) : Result :=
  if inRegisterRegion off then
    match regAccess off size with
    | some r => .next (s.respond (.value size (readReg s r)))
    | none => .next (s.respond .busError)
  else if pbufLegal s off size then
    match s.mem.bytes (off.toNat - pbufBase) size.bytes with
    | .error i => .fault (.unwrittenRead i)
    | .ok bs => .next (s.respond (.value size (leWord bs)))
  else .next (s.respond .busError)

/-- A legal write to CMD (rules R101 to R103): dropped while busy, whatever the word; otherwise
decoded in full, and the command issued or the word reported illegal. -/
def cmdWrite (s : State) (w : Word) : Result :=
  if s.status.busy then .next s.dropCommand
  else
    match decodeWord w with
    | .command i => exec i s
    | .illegal _ => .next s.illegalCommand

/-- A host write to a register (rules R37, R39, R42). -/
def hostWriteReg (s : State) (r : Reg) (v : Word) : Result :=
  match r with
  | .cmd => cmdWrite (s.respond .ok) v
  | _ =>
    match writeReg s r v with
    | some t => .next (t.respond .ok)
    | none => .next (s.respond .busError)

/-- A host write (rules R37 to R42). -/
def hostWrite (s : State) (off : Word) (size : BusSize) (v : Word) : Result :=
  if inRegisterRegion off then
    match regAccess off size with
    | some r => hostWriteReg s r v
    | none => .next (s.respond .busError)
  else if pbufLegal s off size && !s.status.busy then
    .next ({ s with mem := s.mem.writeBytes (off.toNat - pbufBase) (lanes size.bytes v) }.respond .ok)
  else .next (s.respond .busError)

/-- One host-bus access (rule R36), one atomic step (R45). -/
def hostAccess (s : State) : Access → Result
  | .read off size => hostRead s off size
  | .write off size v => hostWrite s off size v

end Sys2Proof.Machine
end

