-- ==== Sys2Proof/Machine/Sequencer.lean ====
section
/-! DEFINITION. The sequencer's turn (R29): which command is in progress, and its next step. -/

namespace Sys2Proof.Machine

/-- The command that the opcode latch names in state PURE (rules R29 and R30). -/
def pureCommand (op : Byte) : Option Instr :=
  match decodeOpcode op with
  | some .crc32c => some .crc32c
  | some .mask => some .mask
  | some .lenenc => some .lenenc
  | some .hdrasm => some .hdrasm
  | some .reclen => some .reclen
  | some .decode | some .encode | none => none

/-- The command in progress, by the sequencer's state (rule R29). -/
def inProgress (s : State) : Option Instr :=
  match s.seq with
  | .idle => none
  | .pure => pureCommand s.op
  | .decHdr | .decPay | .decFtr => some .decode
  | .encStart | .encHdr | .encPay | .encFtr => some .encode

/-- The sequencer's turn: nothing while no command is in progress (R112: the framer executes nothing
until a CMD write), else the next step of the command in progress. -/
def sequencerTurn (s : State) : Result :=
  if s.status.busy then
    match inProgress s with
    | some i => exec i s
    | none => .refused .sequencerOutsideSpec
  else .next s

end Sys2Proof.Machine
end

