-- ==== Sys2Proof/Machine/Step.lean ====
section
/-! DEFINITION. One step of the machine: the agent at the head of the agenda moves (R13, R53). -/

namespace Sys2Proof.Machine

/-- What the agenda's entry does to the state it is taken off (rules R13, R36, R112). -/
def perform (e : Event) (s : State) : Host.Outcome State Fault Refusal :=
  match e with
  | .host a => hostAccess s a
  | .sequencer => sequencerTurn s
  | .reset => .next s.applyReset
  | .connectInput answers => .next { s with rx := answers }
  | .connectOutput answers => .next { s with tx := answers }

/-- One step. With an empty agenda it is the sequencer's turn (log entry 1). -/
def step (s : State) : Host.Outcome State Fault Refusal :=
  match s.agenda with
  | [] => sequencerTurn s
  | e :: rest => perform e { s with agenda := rest }

/-- The machine free to take a command, whose next step is the host's write of the word `w` (its bits
above `nbits` zero) to CMD: the framer fetches no other way (rules R56, R57, R101; log entry 8). -/
def State.withFetchWord (s : State) (nbits w : Nat) : State :=
  { s with agenda := .host (.write 0x000#32 .b4 (tableWord nbits w)) :: s.agenda,
           seq := .idle, status := { s.status with busy := false } }

end Sys2Proof.Machine
end

