-- ==== Sys2Proof/Machine/HostProgram.lean ====
section
/-! DEFINITION. Host programs (R61, R62): what a line expands to, and a program running among the other
agents, in any interleaving. -/

namespace Sys2Proof.Machine

/-- What a host program asks of the host: one access, or polls of STATUS until BUSY reads 0. -/
inductive HostOp where
  | access (a : Access)
  | poll
deriving DecidableEq, Repr

/-- `load K, b0 b1 ... bm` (rule R62): one byte write per byte, at rising offsets of the window. DESIGN
CHOICE (log entry 11): an offset 0x1000+K+j above 2^32 - 1, to which the spec gives no meaning, is taken
modulo 2^32. -/
def expandLoad (k : Word) : List Byte → List HostOp
  | [] => []
  | b :: bs => .access (.write (0x1000#32 + k) .b1 (b.setWidth 32)) :: expandLoad (k + 1) bs

/-- What a line stands for (rules R61 and R62). -/
def expand : HostLine → List HostOp
  | .wr32 off v => [.access (.write off .b4 v)]
  | .wr16 off v => [.access (.write off .b2 v)]
  | .wr8 off v => [.access (.write off .b1 v)]
  | .rd32 off => [.access (.read off .b4)]
  | .rd16 off => [.access (.read off .b2)]
  | .rd8 off => [.access (.read off .b1)]
  | .command i => [.access (.write 0x000#32 .b4 (encodeWord i))]
  | .setlen n => [.access (.write 0x010#32 .b4 (n.extractLsb' 0 32)),
                  .access (.write 0x014#32 .b4 (n.extractLsb' 32 32))]
  | .setcrc c => [.access (.write 0x018#32 .b4 c)]
  | .wait => [.poll]
  | .load k bytes => expandLoad k bytes
  | .ienable => [.access (.write 0x008#32 .b4 1)]
  | .idisable => [.access (.write 0x008#32 .b4 0)]

/-- Who takes the next step while a program runs (rule R13): its host, with the program's next access,
or any other agent. -/
inductive Turn where
  | program
  | other (e : Event)
deriving DecidableEq, Repr

/-- Where a program stands when the turns are over. -/
inductive ProgramOutcome where
  /-- Every line is done. -/
  | ended (s : State)
  /-- The turns are over and `todo` is not done: a wait whose BUSY stays 1 is one of these (R120). -/
  | running (s : State) (todo : List HostOp)
  /-- A step faulted. -/
  | fault (f : Fault)
  /-- A step was refused. -/
  | refused (r : Refusal)
deriving DecidableEq, Repr

/-- The access the host makes for an operation: a poll is `rd32 0x004` (rule R62). -/
def HostOp.asks : HostOp → Access
  | .access a => a
  | .poll => .read 0x004#32 .b4

/-- A poll ends its wait: bit 0 (BUSY) of the value read is 0 (rule R62). -/
def pollEnds (s : State) : Bool :=
  match s.response with
  | some (.value _ v) => !v.getLsbD 0
  | some .ok | some .busError | none => false

/-- What is left to do after the access of the first operation: a poll that read BUSY = 1 is repeated,
and nothing behind it is done before it ends. -/
def remaining (op : HostOp) (ops : List HostOp) (s : State) : List HostOp :=
  match op with
  | .access _ => ops
  | .poll => if pollEnds s then ops else .poll :: ops

/-- One turn and what it leaves to do. -/
def takeTurn (u : Turn) (op : HostOp) (ops : List HostOp) (s : State) :
    Host.Outcome (State × List HostOp) Fault Refusal :=
  match u with
  | .program =>
    match perform (.host op.asks) s with
    | .next t => .next (t, remaining op ops t)
    | .fault f => .fault f
    | .refused r => .refused r
  | .other e =>
    match perform e s with
    | .next t => .next (t, op :: ops)
    | .fault f => .fault f
    | .refused r => .refused r

/-- Operations run turn by turn. The turns are an argument, so every interleaving of rule R13 is one:
the sequencer may move between any two accesses, and not only between two polls. -/
def runOps : List Turn → State → List HostOp → ProgramOutcome
  | _, s, [] => .ended s
  | [], s, op :: ops => .running s (op :: ops)
  | u :: us, s, op :: ops =>
    match takeTurn u op ops s with
    | .next (t, left) => runOps us t left
    | .fault f => .fault f
    | .refused r => .refused r

/-- A host program (rules R61 and R62) run turn by turn. -/
def runProgram (us : List Turn) (s : State) (lines : List HostLine) : ProgramOutcome :=
  runOps us s (lines.flatMap expand)

end Sys2Proof.Machine
end

