-- ==== Sys2Proof/Safety.lean ====
section
/-! DEFINITION. The terms claims are made in: what a run keeps, and the spec's words for an outcome. -/

namespace Sys2Proof.Machine

/-- `n` steps of the machine, stopping at the first fault or refusal. -/
def run : Nat → State → Result
  | 0, s => .next s
  | n + 1, s =>
    match step s with
    | .next t => run n t
    | .fault f => .fault f
    | .refused r => .refused r

/-- PBUF[0..|p|) holds exactly the bytes `p`, all of them written (rules R10, R32). -/
abbrev State.holds (s : State) (p : List Byte) : Prop :=
  ∀ i : Fin p.length, s.mem.read i.val = some p[i]

/-- `i` is the lowest of the PBUF indices a .. a+n-1 that was never written (rule R32). -/
abbrev State.firstUnwritten (s : State) (a n i : Nat) : Prop :=
  a ≤ i ∧ i < a + n ∧ s.mem.read i = none ∧ ∀ j < i, a ≤ j → s.mem.read j ≠ none

/-- `s` with the command ended (rule R104): RC, BUSY and DONE written, the sequencer idle, and nothing
else. -/
def State.ended (s : State) (rc : ResultCode) : State :=
  { s with status := { s.status with rc := rc, busy := false, done := true }, seq := .idle }

/-- The eight bytes of a length as they stand on the wire (rule R70). -/
def lengthBytes (l : Word64) : List Byte := (List.range 8).map (fun k => l.extractLsb' (8 * k) 8)

/-- The four bytes of a 32-bit field as they stand on the wire (rule R46). -/
def fieldBytes (v : Word) : List Byte := (List.range 4).map (fun k => v.extractLsb' (8 * k) 8)

/-- The header fields a DECODE past its length check rests on (rules R78, R80, R81): the length field
and its checksum, which compared equal, and a length that fits. -/
def HeaderChecked (s : State) : Prop :=
  s.hdr.toList = lengthBytes s.frmLen ++ fieldBytes (mask (crc32c (lengthBytes s.frmLen))) ∧
  s.frmLen.toNat ≤ s.pbufBytes

/-- The payload bytes of a DECODE so far and their running CRC (rules R82, R65). -/
def PayloadTracked (s : State) : Prop :=
  ∃ p : List Byte, p.length = s.payCnt.toNat ∧ s.holds p ∧ s.acc = p.foldl crcStep 0xFFFFFFFF#32

/-- What ENC_START fixed (rule R92): the frame's length, header and footer, of a payload that is still
in PBUF (rule R42). -/
def FrameFixed (s : State) : Prop :=
  s.frmLen = s.argLen ∧ s.frmLen.toNat ≤ s.pbufBytes ∧
  s.hdr.toList = lengthBytes s.frmLen ++ fieldBytes (mask (crc32c (lengthBytes s.frmLen))) ∧
  ∃ p : List Byte, p.length = s.frmLen.toNat ∧ s.holds p ∧
    s.ftr.toList = fieldBytes (mask (crc32c p))

/-- What holds at each place of a command (rules R29, R76, R90). -/
def SeqInv (s : State) : Prop :=
  match s.seq with
  | .idle => True
  | .pure => 1 ≤ s.op.toNat ∧ s.op.toNat ≤ 5 ∧ s.status.hdrCnt = 0 ∧ s.status.ftrCnt = 0
  | .decHdr => s.op = 6 ∧ s.status.hdrCnt.toNat < 12 ∧ s.status.ftrCnt = 0 ∧ s.frmLen = 0 ∧
      s.payCnt = 0 ∧ s.crcStored = 0 ∧ s.crcComputed = 0 ∧ s.status.crcsel = false
  | .decPay => s.op = 6 ∧ s.status.hdrCnt = 12 ∧ s.status.ftrCnt = 0 ∧
      s.payCnt.toNat < s.frmLen.toNat ∧ HeaderChecked s ∧ PayloadTracked s
  | .decFtr => s.op = 6 ∧ s.status.hdrCnt = 12 ∧ s.status.ftrCnt.toNat < 4 ∧
      s.payCnt = s.frmLen ∧ HeaderChecked s ∧ PayloadTracked s
  | .encStart => s.op = 7 ∧ s.status.hdrCnt = 0 ∧ s.status.ftrCnt = 0
  | .encHdr => s.op = 7 ∧ s.status.hdrCnt.toNat < 12 ∧ s.status.ftrCnt = 0 ∧ s.payCnt = 0 ∧
      FrameFixed s
  | .encPay => s.op = 7 ∧ s.status.hdrCnt = 12 ∧ s.status.ftrCnt = 0 ∧
      s.payCnt.toNat < s.frmLen.toNat ∧ FrameFixed s
  | .encFtr => s.op = 7 ∧ s.status.hdrCnt = 12 ∧ s.status.ftrCnt.toNat < 4 ∧
      s.payCnt = s.frmLen ∧ FrameFixed s

/-- What every reachable state keeps. -/
structure Inv (s : State) : Prop where
  /-- seq = IDLE exactly when BUSY = 0 (rule R29). -/
  busy_iff : s.status.busy = true ↔ s.seq ≠ .idle
  /-- A command in progress has none of an outcome's bits set (rules R16, R101). -/
  busy_clear : s.status.busy = true →
    s.status.done = false ∧ s.status.valid = false ∧ s.status.carry = false ∧ s.status.rc = .ok
  /-- A result code other than OK is a completion's (rules R104, R102). -/
  rc_done : s.status.rc ≠ .ok → s.status.done = true
  /-- HDR_CNT is 0..12 and FTR_CNT is 0..4 (rule R16). -/
  hdr_le : s.status.hdrCnt.toNat ≤ 12
  ftr_le : s.status.ftrCnt.toNat ≤ 4
  /-- PBUF keeps its canonical form inside its PBUF_BYTES bytes (rule R26). -/
  mem_wf : s.mem.wf
  mem_within : s.mem.within s.pbufBytes
  /-- PAY_CNT ≤ PBUF_BYTES, so PAY_CNT_HI reads 0, and PAY_CNT ≤ FRM_LEN (rule R24). -/
  pay_le : s.payCnt.toNat ≤ s.pbufBytes
  pay_frm : s.payCnt.toNat ≤ s.frmLen.toNat
  /-- VALID is a DECODE's that ended OK with a data check that compared equal (rules R86, R88). -/
  valid_ok : s.status.valid = true → s.status.done = true ∧ s.status.rc = .ok ∧ s.op = 6 ∧
    s.status.crcsel = true ∧ s.crcStored = s.crcComputed ∧ s.payCnt = s.frmLen
  /-- A DECODE that ended OK left VALID set (rule R88). -/
  decode_ok : s.status.done = true → s.op = 6 → s.status.rc = .ok → s.status.valid = true
  /-- The command's place. -/
  place : SeqInv s

end Sys2Proof.Machine
end

