-- ==== Sys2Proof/Certificates/Slice0/Obligations.lean ====
section
/-! DEFINITION. The statements about the machine, one def each, from the numbered rules of spec/. -/

open Sys2Proof Sys2Proof.Machine

/-! ## Command words -/

/-- The seven words of rule R59, written out bit by bit, and words that rule R60 calls illegal. -/
def Obligations.CommandWordsDecodeByTheOpcodeMap : Prop :=
  decodeWord 0b00000000000000000000000000000001#32 = .command .crc32c ∧
  decodeWord 0b00000000000000000000000000000010#32 = .command .mask ∧
  decodeWord 0b00000000000000000000000000000011#32 = .command .lenenc ∧
  decodeWord 0b00000000000000000000000000000100#32 = .command .hdrasm ∧
  decodeWord 0b00000000000000000000000000000101#32 = .command .reclen ∧
  decodeWord 0b00000000000000000000000000000110#32 = .command .decode ∧
  decodeWord 0b00000000000000000000000000000111#32 = .command .encode ∧
  decodeWord 0x00000000#32 = .illegal (.unassignedOpcode 0x00#8) ∧
  decodeWord 0x00000008#32 = .illegal (.unassignedOpcode 0x08#8) ∧
  decodeWord 0x00000106#32 = .illegal .reservedFieldNotZero ∧
  ∀ i : Instr, decodeWord (encodeWord i) = .command i ∧ decode (encode i) = .command i

/-- Rule R57: a word selects a command if and only if RSVD = 0 and OPC is one of the seven opcodes, and
then it is that command's one word; a sequence of bytes selects one only if it is its four lanes. -/
def Obligations.DecoderAcceptsExactlyTheSevenWords : Prop :=
  (∀ w : Word, (∃ i, decodeWord w = .command i) ↔
    w.extractLsb' 8 24 = 0 ∧ 1 ≤ (w.extractLsb' 0 8).toNat ∧ (w.extractLsb' 0 8).toNat ≤ 7) ∧
  (∀ (w : Word) (i : Instr), decodeWord w = .command i ↔ w = encodeWord i) ∧
  (∀ (bs : List Byte) (i : Instr), decode bs = .command i ↔ bs = encode i)

/-- Rule R60: every other word is illegal, and the decoder names why. -/
def Obligations.DecoderRejectsEveryOtherWordByName : Prop :=
  ∀ w : Word,
    (decodeWord w = .illegal .reservedFieldNotZero ↔ w.extractLsb' 8 24 ≠ 0) ∧
    ∀ o : Byte, decodeWord w = .illegal (.unassignedOpcode o) ↔
      w.extractLsb' 8 24 = 0 ∧ o = w.extractLsb' 0 8 ∧ (o.toNat = 0 ∨ 8 ≤ o.toNat)

/-! ## A step runs the decoded command -/

/-- The host's write of a command's word to CMD while BUSY = 0 is that command's exec, the agenda's
entry taken off and the bus answering Ok; and withFetchWord, by which the model places a command (log
entry 8), sets up exactly such a step. -/
def Obligations.StepIssuesTheDecodedCommand : Prop :=
  (∀ (s : State) (rest : List Event) (w : Word) (i : Instr),
    s.agenda = .host (.write 0x000#32 .b4 w) :: rest → s.status.busy = false →
    decodeWord w = .command i →
    step s = exec i { s with agenda := rest, response := some .ok }) ∧
  (∀ (s : State) (w : Nat) (i : Instr), decodeTableWord 32 w = some i →
    step (s.withFetchWord 32 w) =
      exec i { s with response := some .ok, seq := .idle,
                      status := { s.status with busy := false } })

/-- A sequencer step of a busy machine is exec of the command in progress: the command OP names in
state PURE, DECODE in the three reading states, ENCODE in the four writing states (rule R29). -/
def Obligations.StepAdvancesTheCommandInProgress : Prop :=
  ∀ (s : State) (rest : List Event), s.agenda = .sequencer :: rest → s.status.busy = true →
    (∀ i, (i = .crc32c ∨ i = .mask ∨ i = .lenenc ∨ i = .hdrasm ∨ i = .reclen) →
      s.seq = .pure → s.op = opcode i → step s = exec i { s with agenda := rest }) ∧
    ((s.seq = .decHdr ∨ s.seq = .decPay ∨ s.seq = .decFtr) →
      step s = exec .decode { s with agenda := rest }) ∧
    ((s.seq = .encStart ∨ s.seq = .encHdr ∨ s.seq = .encPay ∨ s.seq = .encFtr) →
      step s = exec .encode { s with agenda := rest })

/-- The model's own choice (log entry 7, DESIGN CHOICE), no rule of the spec: exec of a command that is
not the one in progress, on a busy machine, sets OVR and nothing else. The machine itself reaches exec
only through the two statements above. -/
def Obligations.ExecOfACommandNotInProgressIsDropped : Prop :=
  ∀ (s : State) (i : Instr), s.status.busy = true →
    ((i = .crc32c ∨ i = .mask ∨ i = .lenenc ∨ i = .hdrasm ∨ i = .reclen) →
      s.seq ≠ .pure ∨ s.op ≠ opcode i) →
    (i = .decode → s.seq ≠ .decHdr ∧ s.seq ≠ .decPay ∧ s.seq ≠ .decFtr) →
    (i = .encode → s.seq ≠ .encStart ∧ s.seq ≠ .encHdr ∧ s.seq ≠ .encPay ∧ s.seq ≠ .encFtr) →
    exec i s = .next { s with status := { s.status with ovr := true } }

/-! ## Issue, illegal words, overrun, completion -/

/-- Rule R101 (with R77 and R91): the CMD write of a legal word while BUSY = 0. -/
def Obligations.IssueStartsTheCommand : Prop :=
  ∀ (s : State) (rest : List Event) (w : Word),
    s.agenda = .host (.write 0x000#32 .b4 w) :: rest → s.status.busy = false →
    w.extractLsb' 8 24 = 0 → 1 ≤ (w.extractLsb' 0 8).toNat → (w.extractLsb' 0 8).toNat ≤ 7 →
    step s = .next
      { s with
        agenda := rest, response := some .ok, op := w.extractLsb' 0 8,
        status := { busy := true, done := false, valid := false, ovr := false, carry := false,
                    crcsel := false, rc := .ok, hdrCnt := 0, ftrCnt := 0 },
        seq := if w.extractLsb' 0 8 = 6 then .decHdr
               else if w.extractLsb' 0 8 = 7 then .encStart else .pure,
        frmLen := if w.extractLsb' 0 8 = 6 then 0 else s.frmLen,
        payCnt := if w.extractLsb' 0 8 = 6 then 0 else s.payCnt,
        crcStored := if w.extractLsb' 0 8 = 6 then 0 else s.crcStored,
        crcComputed := if w.extractLsb' 0 8 = 6 then 0 else s.crcComputed }

/-- Rule R102: an illegal word while BUSY = 0 ends at once with ILLEGAL_COMMAND, and raises the
completion interrupt where it is enabled. -/
def Obligations.IllegalWordEndsAtOnce : Prop :=
  ∀ (s : State) (rest : List Event) (w : Word),
    s.agenda = .host (.write 0x000#32 .b4 w) :: rest → s.status.busy = false →
    (w.extractLsb' 8 24 ≠ 0 ∨ (w.extractLsb' 0 8).toNat = 0 ∨ 8 ≤ (w.extractLsb' 0 8).toNat) →
    ∃ t, step s = .next t ∧ t.irq = s.ie ∧
      t = { s with
        agenda := rest, response := some .ok,
        status := { busy := false, done := true, valid := false, ovr := false, carry := false,
                    crcsel := false, rc := .illegalCommand, hdrCnt := 0, ftrCnt := 0 } }

/-- Rule R103: a CMD write while BUSY = 1, legal or illegal word, sets OVR and nothing else. -/
def Obligations.CmdWriteWhileBusyIsDropped : Prop :=
  ∀ (s : State) (rest : List Event) (w : Word),
    s.agenda = .host (.write 0x000#32 .b4 w) :: rest → s.status.busy = true →
    step s = .next { s with agenda := rest, response := some .ok,
                            status := { s.status with ovr := true } }

/-- Rules R104 and R113: a busy machine becomes free only by a sequencer step that finishes the
command (DONE = 1) or by reset (DONE = 0 and RC = 0). -/
def Obligations.CommandEndsOnlyByFinishOrReset : Prop :=
  ∀ s t : State, step s = .next t → s.status.busy = true → t.status.busy = false →
    (t.status.done = true ∧ t.seq = .idle ∧
      (s.agenda = [] ∨ ∃ rest, s.agenda = .sequencer :: rest)) ∨
    (t.status.done = false ∧ t.status.rc = .ok ∧ t.seq = .idle ∧ ∃ rest, s.agenda = .reset :: rest)

/-- Rule R104: after a command's end no further step of it occurs. Turns of the sequencer change
nothing while BUSY = 0, however many of them the agenda lists (such a turn is a step: log entry 1). -/
def Obligations.FreeMachineTakesNoSequencerStep : Prop :=
  ∀ (n : Nat) (s : State) (rest : List Event), s.status.busy = false →
    s.agenda = List.replicate n .sequencer ++ rest →
    run n s = .next { s with agenda := rest }

/-! ## The checksum engine and the length encoder -/

/-- Rule R68, the payload written: RESULT gets its CRC32C and the command ends OK. -/
def Obligations.Crc32cWritesTheChecksum : Prop :=
  ∀ (s : State) (p : List Byte), s.status.busy = true → s.seq = .pure → s.op = 0x01 →
    p.length = s.argLen.toNat → s.argLen.toNat ≤ s.pbufBytes → s.holds p →
    exec .crc32c s = .next (State.ended { s with result := (crc32c p).setWidth 64 } .ok)

/-- Rule R68, a length above PBUF_BYTES: LENGTH_UNSUPPORTED, RESULT unchanged. -/
def Obligations.Crc32cRefusesALengthAbovePbuf : Prop :=
  ∀ s : State, s.status.busy = true → s.seq = .pure → s.op = 0x01 →
    (s.pbufBytes < s.argLen.toNat ∨ 2 ^ 32 ≤ s.argLen.toNat) →
    exec .crc32c s = .next (s.ended .lengthUnsupported)

/-- Rule R32 (with R68, R90): CRC32C and ENCODE on a payload with a byte never written since power-up
stop with the model fault UnwrittenRead. That it names the lowest such index is the model's inference
(log entry 3, DEDUCED): the rules say only that it names one. -/
def Obligations.ReadingAnUnwrittenPayloadByteFaults : Prop :=
  ∀ (s : State) (i : Nat), s.status.busy = true → s.argLen.toNat ≤ s.pbufBytes →
    s.firstUnwritten 0 s.argLen.toNat i →
    (s.seq = .pure → s.op = 0x01 → exec .crc32c s = .fault (.unwrittenRead i)) ∧
    (s.seq = .encStart → exec .encode s = .fault (.unwrittenRead i))

/-- Rule R69: RESULT gets ((c rotr 15) + 0xA282EAD8) mod 2^32, zero-extended; MASK always ends OK and
CARRY is not set. -/
def Obligations.MaskWritesTheMaskedValue : Prop :=
  ∀ s : State, s.status.busy = true → s.seq = .pure → s.op = 0x02 →
    let c := s.argCrc.toNat
    let m := (c / 2 ^ 15 + c % 2 ^ 15 * 2 ^ 17 + 0xA282EAD8) % 2 ^ 32
    exec .mask s = .next (State.ended { s with result := BitVec.ofNat 64 m } .ok)

/-- Rule R72: HDR[0..8) gets the bytes of ARG_LEN, the least significant first; HDR[8..12), FTR and
RESULT are unchanged; the views HDR0 and HDR1 are then ARG_LEN_LO and ARG_LEN_HI. -/
def Obligations.LenencWritesTheLengthBytes : Prop :=
  ∀ s : State, s.status.busy = true → s.seq = .pure → s.op = 0x03 →
    ∃ t : State, exec .lenenc s = .next t ∧ t = State.ended { s with hdr := t.hdr } .ok ∧
      t.hdr.toList = lengthBytes s.argLen ++ s.hdr.toList.drop 8 ∧
      readReg t .hdr0 = s.argLen.extractLsb' 0 32 ∧ readReg t .hdr1 = s.argLen.extractLsb' 32 32

/-- Rule R73: HDR gets the length bytes and their masked CRC32C, RESULT that checksum; the view HDR2 is
the checksum. No length is refused. -/
def Obligations.HdrasmAssemblesTheHeader : Prop :=
  ∀ s : State, s.status.busy = true → s.seq = .pure → s.op = 0x04 →
    ∃ t : State, exec .hdrasm s = .next t ∧
      t = State.ended { s with hdr := t.hdr, result := t.result } .ok ∧
      t.hdr.toList =
        lengthBytes s.argLen ++ fieldBytes (mask (crc32c (lengthBytes s.argLen))) ∧
      t.result = (mask (crc32c (lengthBytes s.argLen))).setWidth 64 ∧
      readReg t .hdr2 = mask (crc32c (lengthBytes s.argLen))

/-- Rule R74: the exact record length is CARRY * 2^64 + RESULT, for every length. -/
def Obligations.ReclenGivesTheExactRecordLength : Prop :=
  ∀ s : State, s.status.busy = true → s.seq = .pure → s.op = 0x05 →
    ∃ t : State, exec .reclen s = .next t ∧
      t.status.carry.toNat * 2 ^ 64 + t.result.toNat = 12 + s.argLen.toNat + 4 ∧
      t = State.ended { s with result := t.result,
                               status := { s.status with carry := t.status.carry } } .ok

/-- Rule R67: masking is a bijection, with the inverse the rule gives. -/
def Obligations.MaskIsABijection : Prop :=
  (∀ c d : Word, mask c = mask d ↔ c = d) ∧
  ∀ m : Word, mask (let v := m - 0xA282EAD8#32; v.extractLsb' 0 17 ++ v.extractLsb' 17 15) = m

/-- Rule R70: the length field decodes to the length it encodes, for all 2^64 lengths and all 8 bytes. -/
def Obligations.LengthFieldRoundTrips : Prop :=
  (∀ l : Word64, rdle8 (le8 l) = l) ∧ ∀ s : Vector Byte 8, le8 (rdle8 s) = s

/-- Section 2.1 of 95_test_vectors.md, vectors CR1 to CR12 and the four points of crc_step, and the
incremental form of rule R65. The parameters these values come from are general knowledge in the spec
itself (R63, R64; log entry 10, PRESUMED). -/
def Obligations.Crc32cHasTheStandardValues : Prop :=
  (∀ c ∈ [
      (([] : List Byte), 0x00000000#32, 0xA282EAD8#32),
      ([0x31, 0x32, 0x33, 0x34, 0x35, 0x36, 0x37, 0x38, 0x39], 0xE3069283#32, 0xC78AB0E5#32),
      (List.replicate 32 0x00, 0x8A9136AA#32, 0x0FD7FFFA#32),
      (List.replicate 32 0xFF, 0x62A8AB43#32, 0xF909B029#32),
      ((List.range 32).map (BitVec.ofNat 8), 0x46DD794E#32, 0x951F7892#32),
      ((List.range 32).reverse.map (BitVec.ofNat 8), 0x113FDB5C#32, 0x593B0D57#32),
      ([0x61], 0xC1D04330#32, 0x28E46E78#32),
      ([0x61, 0x62], 0xE2A22936#32, 0xF4F0B01C#32),
      ([0x62, 0x62], 0xD64581AF#32, 0xA5E29763#32),
      ([0x00], 0x527D5351#32, 0x49258FD2#32)],
    crc32c c.1 = c.2.1 ∧ mask (crc32c c.1) = c.2.2) ∧
  mask (crc32c [0x78, 0x79, 0x7A]) = 0x738D351E#32 ∧
  mask (crc32c ((List.range 16).map (BitVec.ofNat 8))) = 0xB45A9E6A#32 ∧
  crcStep 0xFFFFFFFF#32 0x00 = 0xAD82ACAE#32 ∧ crcStep 0xFFFFFFFF#32 0x61 = 0x3E2FBCCF#32 ∧
  crcStep 0 0x00 = 0 ∧ crcStep 0 0x01 = 0xF26B8303#32 ∧
  ∀ p : List Byte, p.foldl crcStep 0xFFFFFFFF#32 ^^^ 0xFFFFFFFF#32 = crc32c p

/-- What S6 of 95_test_vectors.md rests on: changing one byte of a message to any other value changes
its CRC32C, and so its masked CRC32C. -/
def Obligations.OneChangedByteChangesTheChecksum : Prop :=
  ∀ (p q : List Byte) (b c : Byte), b ≠ c →
    crc32c (p ++ b :: q) ≠ crc32c (p ++ c :: q) ∧
    mask (crc32c (p ++ b :: q)) ≠ mask (crc32c (p ++ c :: q))

/-! ## DECODE -/

/-- Rule R78: a header byte other than the twelfth is stored at HDR[HDR_CNT] and counted. -/
def Obligations.DecodeStoresAHeaderByte : Prop :=
  ∀ (s : State) (b : Byte) (r : List ReadAnswer), s.status.busy = true → s.seq = .decHdr →
    s.rx = .byte b :: r → s.status.hdrCnt.toNat < 11 →
    exec .decode s = .next
      { s with rx := r, hdr := s.hdr.setIfInBounds s.status.hdrCnt.toNat b,
               status := { s.status with hdrCnt := s.status.hdrCnt + 1 } }

/-- Rules R78, R80 and R81, the twelfth header byte: the length `l` and the stored checksum are taken
from the header, both checksums are recorded, and the checks decide in order. -/
def Obligations.DecodeChecksTheHeader : Prop :=
  ∀ (s : State) (b : Byte) (r : List ReadAnswer) (l : Word64) (stored : Word),
    s.status.busy = true → s.seq = .decHdr → s.rx = .byte b :: r → s.status.hdrCnt = 11 →
    (s.hdr.setIfInBounds 11 b).toList = lengthBytes l ++ fieldBytes stored →
    let computed := mask (crc32c (lengthBytes l))
    let u := { s with rx := r, hdr := s.hdr.setIfInBounds 11 b, frmLen := l, crcStored := stored,
                      crcComputed := computed,
                      status := { s.status with hdrCnt := 12, crcsel := false } }
    exec .decode s = .next
      (if computed ≠ stored then u.ended .checksumMismatch
       else if s.pbufBytes < l.toNat then u.ended .lengthUnsupported
       else if l = 0 then { u with acc := 0xFFFFFFFF#32, seq := .decFtr }
       else { u with acc := 0xFFFFFFFF#32, seq := .decPay })

/-- Rule R82: a payload byte is stored at PBUF[PAY_CNT], folded into ACC and counted; the last one is
followed by the footer; every other byte of PBUF reads as before. -/
def Obligations.DecodeStoresAPayloadByte : Prop :=
  ∀ (s : State) (b : Byte) (r : List ReadAnswer), s.status.busy = true → s.seq = .decPay →
    s.rx = .byte b :: r → s.payCnt.toNat < s.frmLen.toNat → s.frmLen.toNat ≤ s.pbufBytes →
    ∃ t : State, exec .decode s = .next t ∧
      t = { s with rx := r, mem := t.mem, acc := crcStep s.acc b, payCnt := s.payCnt + 1,
                   seq := if s.payCnt.toNat + 1 = s.frmLen.toNat then .decFtr else .decPay } ∧
      ∀ i, t.mem.read i = if i = s.payCnt.toNat then some b else s.mem.read i

/-- Rule R84: a footer byte other than the fourth is stored at FTR[FTR_CNT] and counted. -/
def Obligations.DecodeStoresAFooterByte : Prop :=
  ∀ (s : State) (b : Byte) (r : List ReadAnswer), s.status.busy = true → s.seq = .decFtr →
    s.rx = .byte b :: r → s.status.ftrCnt.toNat < 3 →
    exec .decode s = .next
      { s with rx := r, ftr := s.ftr.setIfInBounds s.status.ftrCnt.toNat b,
               status := { s.status with ftrCnt := s.status.ftrCnt + 1 } }

/-- Rules R84 and R86, the fourth footer byte: the data checksums are recorded and compared; DECODE ends
OK with VALID = 1 exactly when they are equal. -/
def Obligations.DecodeChecksTheData : Prop :=
  ∀ (s : State) (b : Byte) (r : List ReadAnswer) (stored : Word),
    s.status.busy = true → s.seq = .decFtr → s.rx = .byte b :: r → s.status.ftrCnt = 3 →
    (s.ftr.setIfInBounds 3 b).toList = fieldBytes stored →
    let computed := mask (s.acc ^^^ 0xFFFFFFFF#32)
    let u := { s with rx := r, ftr := s.ftr.setIfInBounds 3 b, crcStored := stored,
                      crcComputed := computed,
                      status := { s.status with ftrCnt := 4, crcsel := true } }
    exec .decode s = .next
      (if computed ≠ stored then u.ended .checksumMismatch
       else State.ended { u with status := { u.status with valid := true } } .ok)

/-- Rules R79, R83 and R85 (STRICT): end-of-stream ends DECODE with the code of its place; nothing else
changes and the channel stays at end-of-stream (R79 says so; for the payload and the footer it is the
model's choice, log entry 5). -/
def Obligations.DecodeAtEndOfStreamEnds : Prop :=
  ∀ (s : State) (r : List ReadAnswer), s.status.busy = true → s.rx = .eof :: r →
    (s.seq = .decHdr → s.status.hdrCnt = 0 → exec .decode s = .next (s.ended .endOfStream)) ∧
    (s.seq = .decHdr → s.status.hdrCnt ≠ 0 → exec .decode s = .next (s.ended .malformedStream)) ∧
    (s.seq = .decPay → exec .decode s = .next (s.ended .truncatedRecord)) ∧
    (s.seq = .decFtr → s.cfg.footerPolicy = .strict →
      exec .decode s = .next (s.ended .truncatedRecord))

/-- Rule R85, SOURCE_COMPAT: end-of-stream inside the footer runs the data check on FTR as it stands,
stale bytes included. That the channel stays at end-of-stream, here inside the footer, is the model's
inference (log entry 5, DEDUCED). -/
def Obligations.SourceCompatChecksAShortFooterAsItStands : Prop :=
  ∀ (s : State) (r : List ReadAnswer) (stored : Word), s.status.busy = true → s.seq = .decFtr →
    s.rx = .eof :: r → s.cfg.footerPolicy = .sourceCompat → s.ftr.toList = fieldBytes stored →
    let computed := mask (s.acc ^^^ 0xFFFFFFFF#32)
    let u := { s with crcStored := stored, crcComputed := computed,
                      status := { s.status with crcsel := true } }
    exec .decode s = .next
      (if computed ≠ stored then u.ended .checksumMismatch
       else State.ended { u with status := { u.status with valid := true } } .ok)

/-- Rule R87: a channel failure in any reading state does finish(IO_FAILURE) and changes nothing else
of the framer. That the answer Fail leaves the channel is log entry 5. -/
def Obligations.DecodeOnChannelFailureEnds : Prop :=
  ∀ (s : State) (r : List ReadAnswer), s.status.busy = true → s.rx = .fail :: r →
    (s.seq = .decHdr ∨ s.seq = .decPay ∨ s.seq = .decFtr) →
    exec .decode s = .next (State.ended { s with rx := r } .ioFailure)

/-! ## ENCODE -/

/-- Rule R92, a length that fits and a written payload: FRM_LEN, PAY_CNT, header and footer are fixed. -/
def Obligations.EncodeFixesTheFrame : Prop :=
  ∀ (s : State) (p : List Byte), s.status.busy = true → s.seq = .encStart →
    p.length = s.argLen.toNat → s.argLen.toNat ≤ s.pbufBytes → s.holds p →
    ∃ t : State, exec .encode s = .next t ∧
      t = { s with frmLen := s.argLen, payCnt := 0, hdr := t.hdr, ftr := t.ftr, seq := .encHdr } ∧
      t.hdr.toList =
        lengthBytes s.argLen ++ fieldBytes (mask (crc32c (lengthBytes s.argLen))) ∧
      t.ftr.toList = fieldBytes (mask (crc32c p))

/-- Rule R92, a length above PBUF_BYTES: LENGTH_UNSUPPORTED, nothing written to the channel. -/
def Obligations.EncodeRefusesALengthAbovePbuf : Prop :=
  ∀ s : State, s.status.busy = true → s.seq = .encStart → s.pbufBytes < s.argLen.toNat →
    exec .encode s =
      .next (State.ended { s with frmLen := s.argLen, payCnt := 0 } .lengthUnsupported)

/-- Rule R93: HDR[HDR_CNT] is committed and counted; the twelfth is followed by the payload, or by the
footer where L = 0. -/
def Obligations.EncodeCommitsAHeaderByte : Prop :=
  ∀ (s : State) (b : Byte) (r : List WriteAnswer), s.status.busy = true → s.seq = .encHdr →
    s.tx = .ok :: r → s.hdr[s.status.hdrCnt.toNat]? = some b →
    exec .encode s = .next
      { s with tx := r, sent := s.sent ++ [b],
               status := { s.status with hdrCnt := s.status.hdrCnt + 1 },
               seq := if s.status.hdrCnt.toNat < 11 then .encHdr
                      else if s.frmLen = 0 then .encFtr else .encPay }

/-- Rule R94: PBUF[PAY_CNT] is committed untransformed and counted; the last is followed by the footer;
PBUF is not modified. -/
def Obligations.EncodeCommitsAPayloadByte : Prop :=
  ∀ (s : State) (b : Byte) (r : List WriteAnswer), s.status.busy = true → s.seq = .encPay →
    s.tx = .ok :: r → s.payCnt.toNat < s.frmLen.toNat → s.frmLen.toNat ≤ s.pbufBytes →
    s.mem.read s.payCnt.toNat = some b →
    exec .encode s = .next
      { s with tx := r, sent := s.sent ++ [b], payCnt := s.payCnt + 1,
               seq := if s.payCnt.toNat + 1 = s.frmLen.toNat then .encFtr else .encPay }

/-- Rule R95: FTR[FTR_CNT] is committed and counted; the fourth ends ENCODE with OK. -/
def Obligations.EncodeCommitsAFooterByte : Prop :=
  ∀ (s : State) (b : Byte) (r : List WriteAnswer), s.status.busy = true → s.seq = .encFtr →
    s.tx = .ok :: r → s.ftr[s.status.ftrCnt.toNat]? = some b →
    let u := { s with tx := r, sent := s.sent ++ [b],
                      status := { s.status with ftrCnt := s.status.ftrCnt + 1 } }
    exec .encode s = .next (if s.status.ftrCnt.toNat < 3 then u else u.ended .ok)

/-- Rule R96: a failed write ends ENCODE with IO_FAILURE, the byte not committed and not counted. That
the answer Fail leaves the channel is log entry 5. -/
def Obligations.EncodeOnChannelFailureEnds : Prop :=
  ∀ (s : State) (r : List WriteAnswer), s.status.busy = true → s.tx = .fail :: r →
    ((s.seq = .encHdr ∧ s.status.hdrCnt.toNat < 12) ∨
     (s.seq = .encPay ∧ s.payCnt.toNat < s.pbufBytes ∧ s.written s.payCnt.toNat = true) ∨
     (s.seq = .encFtr ∧ s.status.ftrCnt.toNat < 4)) →
    exec .encode s = .next (State.ended { s with tx := r } .ioFailure)

/-- Rule R50: while the channel a state needs has no answer, the sequencer is stuck, not faulted: its
turns leave the command in progress with all state kept. That a turn with no enabled step is a step that
changes nothing is the model's choice, log entry 1. -/
def Obligations.SilentChannelLeavesTheCommandWaiting : Prop :=
  ∀ (n : Nat) (s : State) (rest : List Event), Inv s →
    s.agenda = List.replicate n .sequencer ++ rest →
    ((s.rx = [] ∧ (s.seq = .decHdr ∨ s.seq = .decPay ∨ s.seq = .decFtr)) ∨
     (s.tx = [] ∧ (s.seq = .encHdr ∨ s.seq = .encPay ∨ s.seq = .encFtr))) →
    s.status.busy = true ∧ run n s = .next { s with agenda := rest }

/-! ## The host bus -/

/-- Rules R14, R28 and R39: what a four-byte read of each mapped offset returns, and that it changes
nothing but the host's answer. -/
def Obligations.RegisterReadsReturnTheRegisterMap : Prop :=
  ∀ (s : State) (rest : List Event) (off v : Word), s.agenda = .host (.read off .b4) :: rest →
    (off, v) ∈ [
      (0x000#32, 0#32), (0x004#32, s.status.word), (0x008#32, if s.ie then 1#32 else 0#32),
      (0x010#32, s.argLen.extractLsb' 0 32), (0x014#32, s.argLen.extractLsb' 32 32),
      (0x018#32, s.argCrc),
      (0x020#32, s.result.extractLsb' 0 32), (0x024#32, s.result.extractLsb' 32 32),
      (0x028#32, s.frmLen.extractLsb' 0 32), (0x02C#32, s.frmLen.extractLsb' 32 32),
      (0x030#32, s.payCnt.extractLsb' 0 32), (0x034#32, s.payCnt.extractLsb' 32 32),
      (0x038#32, s.crcStored), (0x03C#32, s.crcComputed),
      (0x040#32, s.hdr[3] ++ s.hdr[2] ++ s.hdr[1] ++ s.hdr[0]),
      (0x044#32, s.hdr[7] ++ s.hdr[6] ++ s.hdr[5] ++ s.hdr[4]),
      (0x048#32, s.hdr[11] ++ s.hdr[10] ++ s.hdr[9] ++ s.hdr[8]),
      (0x04C#32, s.ftr[3] ++ s.ftr[2] ++ s.ftr[1] ++ s.ftr[0])] →
    step s = .next { s with agenda := rest, response := some (.value .b4 v) }

/-- Rule R16: every field of the STATUS word at its bits, with the codes of rule R99; 7:6 and 31:19
read 0. -/
def Obligations.StatusWordPlacesEveryField : Prop :=
  ∀ f : Status, ∃ rc : Nat,
    f.word.toNat = f.busy.toNat + 2 * f.done.toNat + 4 * f.valid.toNat + 8 * f.ovr.toNat
      + 16 * f.carry.toNat + 32 * f.crcsel.toNat + 256 * rc + 4096 * f.hdrCnt.toNat
      + 65536 * f.ftrCnt.toNat ∧
    (f.rc, rc) ∈ [(.ok, 0), (.endOfStream, 1), (.malformedStream, 2), (.checksumMismatch, 3),
      (.truncatedRecord, 4), (.ioFailure, 5), (.lengthUnsupported, 6), (.illegalCommand, 7)]

/-- Rules R37, R39, R18 and R42: a four-byte write to a mapped register other than CMD. CTRL takes bit 0
at any time; ARG_LEN and ARG_CRC are stored while BUSY = 0 and get BusError while BUSY = 1; a write to
a read-only register answers Ok and changes nothing. -/
def Obligations.RegisterWritesFollowTheAccessColumn : Prop :=
  ∀ (s : State) (rest : List Event) (off v : Word), s.agenda = .host (.write off .b4 v) :: rest →
    (off = 0x008#32 → step s = .next
      { s with agenda := rest, response := some .ok, ie := v.getLsbD 0 }) ∧
    (s.status.busy = false →
      (off = 0x010#32 → step s = .next { s with agenda := rest, response := some .ok,
                                                 argLen := s.argLen.extractLsb' 32 32 ++ v }) ∧
      (off = 0x014#32 → step s = .next { s with agenda := rest, response := some .ok,
                                                 argLen := v ++ s.argLen.extractLsb' 0 32 }) ∧
      (off = 0x018#32 → step s = .next { s with agenda := rest, response := some .ok,
                                                 argCrc := v })) ∧
    (s.status.busy = true → off ∈ [0x010#32, 0x014#32, 0x018#32] →
      step s = .next { s with agenda := rest, response := some .busError }) ∧
    (off ∈ [0x004#32, 0x020#32, 0x024#32, 0x028#32, 0x02C#32, 0x030#32, 0x034#32, 0x038#32, 0x03C#32,
            0x040#32, 0x044#32, 0x048#32, 0x04C#32] →
      step s = .next { s with agenda := rest, response := some .ok })

/-- Rules R37, R38, R41 and R43: a misaligned, wrong-size or unmapped access gets BusError and changes
nothing, by reading or writing. -/
def Obligations.IllegalAccessGetsBusError : Prop :=
  ∀ (s : State) (rest : List Event) (a : Access) (off : Word) (size : BusSize),
    s.agenda = .host a :: rest → (a = .read off size ∨ ∃ v, a = .write off size v) →
    (off.toNat < 0x1000 →
      (size ≠ .b4 ∨ off.toNat % 4 ≠ 0 ∨ off = 0x00C#32 ∨ off = 0x01C#32 ∨ 0x050 ≤ off.toNat)) →
    (0x1000 ≤ off.toNat →
      (off.toNat % size.bytes ≠ 0 ∨ 0x1000 + s.pbufBytes < off.toNat + size.bytes)) →
    step s = .next { s with agenda := rest, response := some .busError }

/-- Rules R40 and R42: a legal PBUF write, of any size, stores its byte lanes little-endian while
BUSY = 0 and gets BusError while BUSY = 1; every other byte of PBUF reads as before. -/
def Obligations.PbufWriteStoresItsByteLanes : Prop :=
  ∀ (s : State) (rest : List Event) (off v : Word) (size : BusSize),
    s.agenda = .host (.write off size v) :: rest → 0x1000 ≤ off.toNat →
    off.toNat % size.bytes = 0 → off.toNat + size.bytes ≤ 0x1000 + s.pbufBytes →
    (s.status.busy = true →
      step s = .next { s with agenda := rest, response := some .busError }) ∧
    (s.status.busy = false → ∃ t : State, step s = .next t ∧
      t = { s with agenda := rest, response := some .ok, mem := t.mem } ∧
      ∀ i, t.mem.read i =
        if off.toNat ≤ 0x1000 + i ∧ 0x1000 + i < off.toNat + size.bytes then
          some (v.extractLsb' (8 * (0x1000 + i - off.toNat)) 8)
        else s.mem.read i)

/-- Rules R40 and R32: a legal PBUF read, of any size, returns the bytes as a little-endian value and
changes nothing else; with a byte never written it is the model fault UnwrittenRead. That the fault
names the lowest such index is the model's inference (log entry 3, DEDUCED), and that the host's answer
is held zero-extended to 32 bits is its choice (log entry 6, DESIGN CHOICE). -/
def Obligations.PbufReadIsLittleEndian : Prop :=
  ∀ (s : State) (rest : List Event) (off : Word) (size : BusSize),
    s.agenda = .host (.read off size) :: rest → 0x1000 ≤ off.toNat →
    off.toNat % size.bytes = 0 → off.toNat + size.bytes ≤ 0x1000 + s.pbufBytes →
    (∀ v : Word,
      (∀ k < 4, if k < size.bytes then
          s.mem.read (off.toNat - 0x1000 + k) = some (v.extractLsb' (8 * k) 8)
        else v.extractLsb' (8 * k) 8 = 0) →
      step s = .next { s with agenda := rest, response := some (.value size v) }) ∧
    (∀ i, s.firstUnwritten (off.toNat - 0x1000) size.bytes i →
      step s = .fault (.unwrittenRead i))

/-- Rule R44: no read has a side effect, at any offset and size, busy or not. -/
def Obligations.NoReadHasASideEffect : Prop :=
  ∀ (s t : State) (rest : List Event) (off : Word) (size : BusSize),
    s.agenda = .host (.read off size) :: rest → step s = .next t →
    t = { s with agenda := rest, response := t.response }

/-- Rules R42 and R103: whatever the host does while a command is in progress, it reaches nothing but
OVR, CTRL.IE and its own answer, so no access changes the command under it. -/
def Obligations.HostCannotDisturbACommandInProgress : Prop :=
  ∀ (s t : State) (rest : List Event) (a : Access), s.agenda = .host a :: rest →
    s.status.busy = true → step s = .next t →
    t = { s with agenda := rest, response := t.response, ie := t.ie,
                 status := { s.status with ovr := t.status.ovr } }

/-! ## Interrupt and reset -/

/-- Rule R107: irq is DONE and CTRL.IE, as the host reads them: bit 1 of STATUS and bit 0 of CTRL; and
writing CTRL.IE = 0 clears it. -/
def Obligations.IrqIsDoneAndEnabled : Prop :=
  (∀ s : State, s.irq = ((readReg s .status).getLsbD 1 && (readReg s .ctrl).getLsbD 0)) ∧
  ∀ (s t : State) (rest : List Event) (v : Word), s.agenda = .host (.write 0x008#32 .b4 v) :: rest →
    v.getLsbD 0 = false → step s = .next t → t.irq = false

/-- Rules R33, R112 and R113: reset at any step, also during a command, gives every element its reset
value, keeps PBUF and the W flags, and leaves what was consumed and committed so. That it also leaves the
answers the channels have ready is the model's choice (log entry 4, DESIGN CHOICE). -/
def Obligations.ResetGivesEveryElementItsResetValue : Prop :=
  ∀ (s : State) (rest : List Event), s.agenda = .reset :: rest →
    ∃ t : State, step s = .next t ∧
      t.status.word = 0 ∧ t.ie = false ∧ t.argLen = 0 ∧ t.argCrc = 0 ∧ t.result = 0 ∧ t.frmLen = 0 ∧
      t.payCnt = 0 ∧ t.crcStored = 0 ∧ t.crcComputed = 0 ∧
      (∀ i : Fin 12, t.hdr[i] = 0) ∧ (∀ i : Fin 4, t.ftr[i] = 0) ∧
      t.seq = .idle ∧ t.op = 0 ∧ t.acc = 0 ∧ t.irq = false ∧
      t.mem = s.mem ∧ t.cfg = s.cfg ∧ t.rx = s.rx ∧ t.tx = s.tx ∧ t.sent = s.sent ∧
      t.agenda = rest

/-! ## Whole-machine rules -/

/-- The invariant holds after power-up and reset, whatever the parameters. -/
def Obligations.InvariantHoldsAtReset : Prop :=
  Inv State.reset ∧ ∀ c : Config, Inv (State.resetWith c)

/-- The invariant is kept by every step of every agent. -/
def Obligations.InvariantKeptByEveryStep : Prop :=
  ∀ s t : State, Inv s → step s = .next t → Inv t

/-- From a state of the invariant the model never refuses, and its one fault is the read of a PBUF byte
never written (rules R32 and R52): an index inside PBUF whose W flag is false. -/
def Obligations.OnlyAnUnwrittenReadStopsTheMachine : Prop :=
  ∀ s : State, Inv s →
    (∀ r, step s ≠ .refused r) ∧
    ∀ f, step s = .fault f →
      ∃ i, f = .unwrittenRead i ∧ i < s.pbufBytes ∧ s.mem.read i = none

/-- Rules R86 and R88: VALID becomes 1 only in the data check of a DECODE in progress, and then both
checks compared equal, over the length and the payload that PBUF holds. -/
def Obligations.ValidOnlyAfterBothChecksComparedEqual : Prop :=
  ∀ s t : State, Inv s → step s = .next t → s.status.valid = false → t.status.valid = true →
    s.seq = .decFtr ∧ t.status.rc = .ok ∧ t.status.done = true ∧
    t.hdr.toList = lengthBytes t.frmLen ++ fieldBytes (mask (crc32c (lengthBytes t.frmLen))) ∧
    t.crcStored = t.crcComputed ∧
    ∃ p : List Byte, p.length = t.frmLen.toNat ∧ t.holds p ∧ t.crcComputed = mask (crc32c p)

/-- Rules R19, R34 and R7: ARG_LEN and ARG_CRC change only by the host's write to them while BUSY = 0 or
by reset, CTRL.IE only by the host's write to CTRL or by reset, and the parameters never. -/
def Obligations.OperandRegistersAreWrittenOnlyByTheHost : Prop :=
  ∀ s t : State, step s = .next t →
    t.cfg = s.cfg ∧
    ((t.argLen = s.argLen ∧ t.argCrc = s.argCrc ∧ t.ie = s.ie) ∨
     (∃ rest, s.agenda = .reset :: rest) ∨
     (∃ off v rest, s.agenda = .host (.write off .b4 v) :: rest ∧
       ((off = 0x008#32 ∧ t.argLen = s.argLen ∧ t.argCrc = s.argCrc) ∨
        (s.status.busy = false ∧ t.ie = s.ie ∧ off ∈ [0x010#32, 0x014#32, 0x018#32]))))

/-- Rules R52 and R34: a byte of PBUF changes only by a host write while BUSY = 0, inside the accessed
bytes, or at PBUF[PAY_CNT] by a DECODE in its payload state. -/
def Obligations.PbufChangesOnlyByHostWriteOrDecode : Prop :=
  ∀ (s t : State) (i : Nat), step s = .next t → t.mem.read i ≠ s.mem.read i →
    (s.status.busy = false ∧ ∃ off size v rest, s.agenda = .host (.write off size v) :: rest ∧
      off.toNat ≤ 0x1000 + i ∧ 0x1000 + i < off.toNat + size.bytes) ∨
    (s.status.busy = true ∧ s.seq = .decPay ∧ i = s.payCnt.toNat ∧
      (s.agenda = [] ∨ ∃ rest, s.agenda = .sequencer :: rest))

/-- Rules R47, R48, R49 and R51: a step takes at most one answer of each channel, in order and only for a
command that uses that channel; what was committed is never taken back and at most one byte is added.
The two connect entries, which give a channel new answers and change nothing else, are the model's
choice (log entry 4, DESIGN CHOICE), and so is that an Eof stays on the channel: rule R79 says it of the
header, for payload and footer it is inferred (log entry 5, DEDUCED). -/
def Obligations.ChannelsMoveOneByteAStepInOrder : Prop :=
  (∀ (s : State) (answers : List ReadAnswer) (rest : List Event),
    s.agenda = .connectInput answers :: rest →
    step s = .next { s with agenda := rest, rx := answers }) ∧
  (∀ (s : State) (answers : List WriteAnswer) (rest : List Event),
    s.agenda = .connectOutput answers :: rest →
    step s = .next { s with agenda := rest, tx := answers }) ∧
  ∀ s t : State, step s = .next t →
    (t.rx = s.rx ∨ (∃ rest, s.agenda = .connectInput t.rx :: rest) ∨
     (s.status.busy = true ∧ (s.seq = .decHdr ∨ s.seq = .decPay ∨ s.seq = .decFtr) ∧
       ∃ a, s.rx = a :: t.rx ∧ a ≠ .eof)) ∧
    (t.tx = s.tx ∨ (∃ rest, s.agenda = .connectOutput t.tx :: rest) ∨
     (s.status.busy = true ∧ (s.seq = .encHdr ∨ s.seq = .encPay ∨ s.seq = .encFtr) ∧
       ∃ a, s.tx = a :: t.tx)) ∧
    (t.sent = s.sent ∨
     (s.status.busy = true ∧ (s.seq = .encHdr ∨ s.seq = .encPay ∨ s.seq = .encFtr) ∧
       s.tx = .ok :: t.tx ∧ ∃ b, t.sent = s.sent ++ [b]))

/-! ## Whole commands -/

/-- Rules R97 and R75: ENCODE of a written payload `p` over a channel that accepts every byte commits
exactly frame(p), recordLength(|p|) bytes, in 1 + 12 + |p| + 4 sequencer steps. -/
def Obligations.EncodeCommitsExactlyTheFrame : Prop :=
  ∀ (s : State) (p : List Byte) (after : List WriteAnswer) (rest : List Event),
    s.status.busy = false → p.length = s.argLen.toNat → p.length ≤ s.pbufBytes → s.holds p →
    s.tx = List.replicate (recordLength p.length) .ok ++ after →
    s.agenda = .host (.write 0x000#32 .b4 0x00000007#32) ::
      (List.replicate (1 + 12 + p.length + 4) .sequencer ++ rest) →
    ∃ t : State, run (1 + (1 + 12 + p.length + 4)) s = .next t ∧
      t.sent = s.sent ++ frame p ∧ (frame p).length = recordLength p.length ∧ t.tx = after ∧
      t.agenda = rest ∧ t.mem = s.mem ∧ t.result = s.result ∧ t.crcStored = s.crcStored ∧
      t.crcComputed = s.crcComputed ∧ t.rx = s.rx ∧
      t.status.word = 0x0004C002#32 ∧ t.frmLen = s.argLen ∧ t.payCnt = s.argLen

/-- Rule R98: DECODE of the frame of `p`, followed by anything, ends OK with VALID = 1 and PBUF holding
`p`, in 12 + |p| + 4 sequencer steps that consume exactly the frame. -/
def Obligations.DecodeOfAFrameRecoversThePayload : Prop :=
  ∀ (s : State) (p : List Byte) (after : List ReadAnswer) (rest : List Event),
    s.status.busy = false → p.length ≤ s.pbufBytes →
    s.rx = (frame p).map .byte ++ after →
    s.agenda = .host (.write 0x000#32 .b4 0x00000006#32) ::
      (List.replicate (12 + p.length + 4) .sequencer ++ rest) →
    ∃ t : State, run (1 + (12 + p.length + 4)) s = .next t ∧
      t.rx = after ∧ t.agenda = rest ∧ t.status.word = 0x0004C026#32 ∧
      t.frmLen.toNat = p.length ∧ t.payCnt.toNat = p.length ∧ t.holds p ∧
      (∀ i, p.length ≤ i → t.mem.read i = s.mem.read i) ∧
      t.result = s.result ∧ t.sent = s.sent ∧ t.tx = s.tx

/-- S6 of 95_test_vectors.md, for any change of one byte of a frame: DECODE ends with CHECKSUM_MISMATCH
and VALID = 0, of the length checksum (CRCSEL = 0) where the byte is in the header, of the data
checksum (CRCSEL = 1) where it is in the payload or the footer. Where it is in the header DECODE ends
early, and the turns left over are steps that change nothing (log entry 1, DESIGN CHOICE). -/
def Obligations.OneChangedByteOfAFrameIsDetected : Prop :=
  ∀ (s : State) (p : List Byte) (i : Nat) (b : Byte) (after : List ReadAnswer) (rest : List Event),
    s.status.busy = false → p.length ≤ s.pbufBytes → (frame p)[i]? ≠ none →
    (frame p)[i]? ≠ some b →
    s.rx = ((frame p).set i b).map .byte ++ after →
    s.agenda = .host (.write 0x000#32 .b4 0x00000006#32) ::
      (List.replicate (12 + p.length + 4) .sequencer ++ rest) →
    ∃ t : State, run (1 + (12 + p.length + 4)) s = .next t ∧
      t.status.busy = false ∧ t.status.done = true ∧ t.status.rc = .checksumMismatch ∧
      t.status.valid = false ∧ t.status.crcsel = decide (12 ≤ i) ∧ t.crcStored ≠ t.crcComputed

/-- Rules R79, R83, R85 and R89: a DECODE in progress on a stream that ends always ends itself, after
at most one sequencer step per byte of the stream and one for its end. Where it ends early, the turns
left over are steps that change nothing (log entry 1, DESIGN CHOICE). -/
def Obligations.DecodeEndsOnceTheStreamEnds : Prop :=
  ∀ (s : State) (bs : List Byte) (rest : List Event), Inv s → s.status.busy = true →
    (s.seq = .decHdr ∨ s.seq = .decPay ∨ s.seq = .decFtr) →
    s.rx = bs.map .byte ++ [.eof] →
    s.agenda = List.replicate (bs.length + 1) .sequencer ++ rest →
    ∃ t : State, run (bs.length + 1) s = .next t ∧
      t.status.busy = false ∧ t.status.done = true ∧ t.agenda = rest

/-- Rules R27, R58 and R77, under STRICT: what a DECODE reports depends on the input stream alone. Two
machines with the same PBUF_BYTES, whatever their other registers, scratch buffers and PBUF hold, given
the same stream and schedule report the same and hold the same payload bytes. The n turns count those on
which the sequencer waits or is idle, steps that change nothing (log entry 1, DESIGN CHOICE). -/
def Obligations.StrictDecodeDependsOnlyOnTheStream : Prop :=
  ∀ (s s' : State) (n : Nat), s.status.busy = false → s'.status.busy = false →
    s.cfg = s'.cfg → s.cfg.footerPolicy = .strict → s.rx = s'.rx →
    s.agenda = .host (.write 0x000#32 .b4 0x00000006#32) :: List.replicate n .sequencer →
    s'.agenda = s.agenda →
    ∃ t t' : State, run (1 + n) s = .next t ∧
      run (1 + n) s' = .next t' ∧
      t.status = t'.status ∧ t.seq = t'.seq ∧ t.frmLen = t'.frmLen ∧ t.payCnt = t'.payCnt ∧
      t.crcStored = t'.crcStored ∧ t.crcComputed = t'.crcComputed ∧ t.rx = t'.rx ∧
      ∀ i < t.payCnt.toNat, t.mem.read i ≠ none ∧ t.mem.read i = t'.mem.read i

/-! ## Host programs -/

/-- Rules R62, R50 and R120, in every interleaving: a wait ends only on a poll that reads BUSY = 0, and
its last answer is that STATUS value; on a free machine the first poll ends it; on a machine whose
channel stays silent it never ends, and no line behind it is done. That a sequencer's turn with no
enabled step is a step that changes nothing is log entry 1 (DESIGN CHOICE). -/
def Obligations.WaitEndsOnlyOnAPollThatReadsBusyClear : Prop :=
  (∀ (us : List Turn) (s t : State), runProgram us s [.wait] = .ended t →
    t.status.busy = false ∧ t.response = some (.value .b4 t.status.word)) ∧
  (∀ (us : List Turn) (s : State), s.status.busy = false →
    runProgram (.program :: us) s [.wait] =
      .ended { s with response := some (.value .b4 s.status.word) }) ∧
  (∀ (us : List Turn) (s : State) (lines : List HostLine), Inv s →
    (∀ u ∈ us, u = .program ∨ u = .other .sequencer) →
    ((s.rx = [] ∧ (s.seq = .decHdr ∨ s.seq = .decPay ∨ s.seq = .decFtr)) ∨
     (s.tx = [] ∧ (s.seq = .encHdr ∨ s.seq = .encPay ∨ s.seq = .encFtr))) →
    ∃ t : State, runProgram us s (.wait :: lines) = .running t (expand .wait ++ lines.flatMap expand) ∧
      t = { s with response := t.response } ∧ t.status.busy = true)
end

