-- ==== Sys2Proof/Laws/Memory.lean ====
section
/-! SUPPORT. The laws of PBUF: read after write, the canonical form, and bytes read in a row. -/

namespace Sys2Proof.Machine

theorem Memory.read_write (m : Memory) (i j : Nat) (b : Byte) :
    (m.write i b).read j = if i = j then some b else m.read j := by
  induction m with
  | nil => simp [Memory.write, Memory.read]
  | cons c m ih =>
    simp only [Memory.write]
    split
    · next h => simp only [Memory.read]; grind
    · split
      · simp only [Memory.read]
      · simp only [Memory.read, ih]; grind

@[simp] theorem Memory.read_write_same (m : Memory) (i : Nat) (b : Byte) :
    (m.write i b).read i = some b := by simp [Memory.read_write]

theorem Memory.read_write_other (m : Memory) {i j : Nat} (b : Byte) (h : i ≠ j) :
    (m.write i b).read j = m.read j := by simp [Memory.read_write, h]

/-- A written cell is the new one or was there before. -/
theorem Memory.mem_write {m : Memory} {i : Nat} {b : Byte} {c : Host.Cell}
    (h : c ∈ m.write i b) : c = (i, b) ∨ c ∈ m := by
  induction m with
  | nil => simpa [Memory.write] using h
  | cons d m ih =>
    simp only [Memory.write] at h
    split at h
    · rcases List.mem_cons.mp h with h | h
      · exact .inl h
      · exact .inr (List.mem_cons_of_mem _ h)
    · split at h
      · rcases List.mem_cons.mp h with h | h
        · exact .inl h
        · exact .inr h
      · rcases List.mem_cons.mp h with h | h
        · exact .inr (h ▸ List.mem_cons_self ..)
        · exact (ih h).imp_right (List.mem_cons_of_mem _)

theorem Memory.wf_write {m : Memory} (i : Nat) (b : Byte) (h : m.wf) : (m.write i b).wf := by
  induction m with
  | nil => simp [Memory.write, Memory.wf]
  | cons c m ih =>
    have ⟨hc, hm⟩ := List.pairwise_cons.mp h
    simp only [Memory.write]
    split
    · next e => exact List.pairwise_cons.mpr ⟨fun d hd => e ▸ hc d hd, hm⟩
    · split
      · next lt =>
        refine List.pairwise_cons.mpr ⟨fun d hd => ?_, h⟩
        rcases List.mem_cons.mp hd with rfl | hd
        · exact lt
        · exact Nat.lt_trans lt (hc d hd)
      · refine List.pairwise_cons.mpr ⟨fun d hd => ?_, ih hm⟩
        rcases Memory.mem_write hd with rfl | hd
        · simp only; omega
        · exact hc d hd

theorem Memory.within_write {m : Memory} {n i : Nat} (b : Byte) (h : m.within n) (hi : i < n) :
    (m.write i b).within n := fun _ hc =>
  (Memory.mem_write hc).elim (fun e => e ▸ hi) (h _)

theorem Memory.wf_writeBytes {m : Memory} (a : Nat) (bs : List Byte) (h : m.wf) :
    (m.writeBytes a bs).wf := by
  induction bs generalizing m a with
  | nil => exact h
  | cons b bs ih => exact ih (a + 1) (Memory.wf_write a b h)

theorem Memory.within_writeBytes {m : Memory} {n a : Nat} (bs : List Byte) (h : m.within n)
    (ha : a + bs.length ≤ n) : (m.writeBytes a bs).within n := by
  induction bs generalizing m a with
  | nil => exact h
  | cons b bs ih =>
    simp only [List.length_cons] at ha
    exact ih (Memory.within_write b h (by omega)) (by omega)

/-- Every byte after a write of the bytes `bs` at `a` (rule R10). -/
theorem Memory.read_writeBytes (m : Memory) (a j : Nat) (bs : List Byte) :
    (m.writeBytes a bs).read j =
      if a ≤ j ∧ j < a + bs.length then bs[j - a]? else m.read j := by
  induction bs generalizing m a with
  | nil => simp [Memory.writeBytes]
  | cons b bs ih =>
    simp only [Memory.writeBytes, ih, Memory.read_write, List.length_cons]
    by_cases h1 : a = j
    · subst h1; simp
    · by_cases h2 : a < j
      · have : j - a = j - (a + 1) + 1 := by omega
        simp only [this, List.getElem?_cons_succ, h1, if_false]
        exact if_congr (by omega) rfl rfl
      · rw [if_neg (by omega), if_neg h1, if_neg (by omega)]

/-- What PbufBytes(a, n) answers when every byte was written (rules R10 and R32). -/
theorem Memory.bytes_ok_iff {m : Memory} {a n : Nat} {p : List Byte} :
    m.bytes a n = .ok p ↔
      p.length = n ∧ ∀ i (h : i < p.length), m.read (a + i) = some p[i] := by
  induction n generalizing a p with
  | zero =>
    cases p <;> simp [Memory.bytes]
  | succ n ih =>
    simp only [Memory.bytes]
    cases hb : m.read a with
    | none =>
      simp only [reduceCtorEq, false_iff, not_and]
      intro hl h
      have := h 0 (by omega)
      simp [hb] at this
    | some b =>
      cases hr : m.bytes (a + 1) n with
      | error i =>
        simp only [reduceCtorEq, false_iff, not_and]
        intro hl h
        cases p with
        | nil => simp at hl
        | cons c p =>
          have : m.bytes (a + 1) n = .ok p := ih.mpr ⟨by simpa using hl, fun i hi => by
            have := h (i + 1) (by simpa using hi)
            simpa [Nat.add_assoc, Nat.add_comm 1 i] using this⟩
          simp [hr] at this
      | ok bs =>
        have hbs := ih.mp hr
        simp only [Except.ok.injEq]
        constructor
        · rintro rfl
          refine ⟨by simp [hbs.1], fun i hi => ?_⟩
          cases i with
          | zero => simpa using hb
          | succ i =>
            have := hbs.2 i (by simpa using hi)
            simpa [Nat.add_assoc, Nat.add_comm 1 i] using this
        · rintro ⟨hl, h⟩
          cases p with
          | nil => simp at hl
          | cons c p =>
            have h0 := h 0 (by simp)
            have : m.bytes (a + 1) n = .ok p := ih.mpr ⟨by simpa using hl, fun i hi => by
              have := h (i + 1) (by simpa using hi)
              simpa [Nat.add_assoc, Nat.add_comm 1 i] using this⟩
            simp_all

/-- What PbufBytes(a, n) answers when a byte was never written: the lowest such index (rule R32). -/
theorem Memory.bytes_error_iff {m : Memory} {a n i : Nat} :
    m.bytes a n = .error i ↔
      a ≤ i ∧ i < a + n ∧ m.read i = none ∧ ∀ j < i, a ≤ j → m.read j ≠ none := by
  induction n generalizing a with
  | zero => simp [Memory.bytes]; omega
  | succ n ih =>
    simp only [Memory.bytes]
    cases hb : m.read a with
    | none =>
      simp only [Except.error.injEq]
      constructor
      · rintro rfl
        exact ⟨Nat.le_refl _, by omega, hb, fun j hj hl => absurd hl (by omega)⟩
      · rintro ⟨hl, -, -, h⟩
        by_contra hne
        exact h a (by omega) (Nat.le_refl _) hb
    | some b =>
      have key : (∃ bs, m.bytes (a + 1) n = .ok bs) ∨ (∃ k, m.bytes (a + 1) n = .error k) := by
        cases m.bytes (a + 1) n <;> simp
      have step : m.bytes (a + 1) n = .error i ↔
          a ≤ i ∧ i < a + (n + 1) ∧ m.read i = none ∧ ∀ j < i, a ≤ j → m.read j ≠ none := by
        rw [ih]
        constructor
        · rintro ⟨h1, h2, h3, h4⟩
          refine ⟨by omega, by omega, h3, fun j hj hl => ?_⟩
          rcases Nat.eq_or_lt_of_le hl with rfl | hl
          · simp [hb]
          · exact h4 j hj hl
        · rintro ⟨h1, h2, h3, h4⟩
          have : a ≠ i := by rintro rfl; simp [hb] at h3
          exact ⟨by omega, by omega, h3, fun j hj hl => h4 j hj (by omega)⟩
      rw [← step]
      rcases key with ⟨bs, hk⟩ | ⟨k, hk⟩ <;> simp [hk]

/-- Canonical memories that read the same are the same data. -/
theorem Memory.read_none_of_lt {m : Memory} {i : Nat} (h : ∀ c ∈ m, i < c.1) : m.read i = none := by
  induction m with
  | nil => rfl
  | cons c m ih =>
    have hc := h c (List.mem_cons_self ..)
    simp only [Memory.read]
    rw [if_neg (by omega)]
    exact ih fun d hd => h d (List.mem_cons_of_mem _ hd)

theorem Memory.ext_of_wf {m m' : Memory} (h : m.wf) (h' : m'.wf)
    (e : ∀ i, m.read i = m'.read i) : m = m' := by
  induction m generalizing m' with
  | nil =>
    cases m' with
    | nil => rfl
    | cons c m' => simpa [Memory.read] using e c.1
  | cons c m ih =>
    obtain ⟨hc, hm⟩ := List.pairwise_cons.mp h
    cases m' with
    | nil => simpa [Memory.read] using e c.1
    | cons d m' =>
      obtain ⟨hd, hm'⟩ := List.pairwise_cons.mp h'
      have hcd : c.1 = d.1 := by
        rcases Nat.lt_trichotomy c.1 d.1 with lt | eq | gt
        · have h1 := e c.1
          rw [Memory.read_none_of_lt (m := d :: m') (fun x hx => by
            rcases List.mem_cons.mp hx with rfl | hx
            · exact lt
            · exact Nat.lt_trans lt (hd x hx))] at h1
          simp [Memory.read] at h1
        · exact eq
        · have h1 := e d.1
          rw [Memory.read_none_of_lt (m := c :: m) (fun x hx => by
            rcases List.mem_cons.mp hx with rfl | hx
            · exact gt
            · exact Nat.lt_trans gt (hc x hx))] at h1
          simp [Memory.read] at h1
      have hv : c.2 = d.2 := by simpa [Memory.read, hcd] using e c.1
      have hrest : ∀ i, Memory.read m i = Memory.read m' i := fun i => by
        by_cases hi : c.1 = i
        · rw [Memory.read_none_of_lt (fun x hx => hi ▸ hc x hx),
            Memory.read_none_of_lt (fun x hx => hi ▸ hcd ▸ hd x hx)]
        · have := e i
          simpa [Memory.read, hi, hcd ▸ hi] using this
      rw [ih hm hm' hrest, Prod.ext hcd hv]

/-- Memory after reset is canonical. -/
theorem reset_mem_wf (c : Config) : (State.resetWith c).mem.wf := List.Pairwise.nil

end Sys2Proof.Machine
end

