-- ==== Sys2Proof/Laws/State.lean ====
section
/-! SUPPORT. What each shared update of State leaves in each field: one lemma per field, true by rfl. -/

namespace Sys2Proof.Machine

/-! ## finish (rule R104) -/

@[simp] theorem finish_cfg (s : State) (rc : ResultCode) : (s.finish rc).cfg = s.cfg := rfl
@[simp] theorem finish_status (s : State) (rc : ResultCode) : (s.finish rc).status = s.status.finish rc := rfl
@[simp] theorem finish_ie (s : State) (rc : ResultCode) : (s.finish rc).ie = s.ie := rfl
@[simp] theorem finish_argLen (s : State) (rc : ResultCode) : (s.finish rc).argLen = s.argLen := rfl
@[simp] theorem finish_argCrc (s : State) (rc : ResultCode) : (s.finish rc).argCrc = s.argCrc := rfl
@[simp] theorem finish_result (s : State) (rc : ResultCode) : (s.finish rc).result = s.result := rfl
@[simp] theorem finish_frmLen (s : State) (rc : ResultCode) : (s.finish rc).frmLen = s.frmLen := rfl
@[simp] theorem finish_payCnt (s : State) (rc : ResultCode) : (s.finish rc).payCnt = s.payCnt := rfl
@[simp] theorem finish_crcStored (s : State) (rc : ResultCode) : (s.finish rc).crcStored = s.crcStored := rfl
@[simp] theorem finish_crcComputed (s : State) (rc : ResultCode) : (s.finish rc).crcComputed = s.crcComputed := rfl
@[simp] theorem finish_hdr (s : State) (rc : ResultCode) : (s.finish rc).hdr = s.hdr := rfl
@[simp] theorem finish_ftr (s : State) (rc : ResultCode) : (s.finish rc).ftr = s.ftr := rfl
@[simp] theorem finish_seq (s : State) (rc : ResultCode) : (s.finish rc).seq = .idle := rfl
@[simp] theorem finish_op (s : State) (rc : ResultCode) : (s.finish rc).op = s.op := rfl
@[simp] theorem finish_acc (s : State) (rc : ResultCode) : (s.finish rc).acc = s.acc := rfl
@[simp] theorem finish_mem (s : State) (rc : ResultCode) : (s.finish rc).mem = s.mem := rfl
@[simp] theorem finish_rx (s : State) (rc : ResultCode) : (s.finish rc).rx = s.rx := rfl
@[simp] theorem finish_tx (s : State) (rc : ResultCode) : (s.finish rc).tx = s.tx := rfl
@[simp] theorem finish_sent (s : State) (rc : ResultCode) : (s.finish rc).sent = s.sent := rfl
@[simp] theorem finish_response (s : State) (rc : ResultCode) : (s.finish rc).response = s.response := rfl
@[simp] theorem finish_agenda (s : State) (rc : ResultCode) : (s.finish rc).agenda = s.agenda := rfl

/-! ## The issue of a legal word (rule R101) -/

@[simp] theorem latch_cfg (s : State) (i : Instr) (q : Seq) : (s.latch i q).cfg = s.cfg := rfl
@[simp] theorem latch_status (s : State) (i : Instr) (q : Seq) : (s.latch i q).status = { s.status.clearForIssue with busy := true } := rfl
@[simp] theorem latch_ie (s : State) (i : Instr) (q : Seq) : (s.latch i q).ie = s.ie := rfl
@[simp] theorem latch_argLen (s : State) (i : Instr) (q : Seq) : (s.latch i q).argLen = s.argLen := rfl
@[simp] theorem latch_argCrc (s : State) (i : Instr) (q : Seq) : (s.latch i q).argCrc = s.argCrc := rfl
@[simp] theorem latch_result (s : State) (i : Instr) (q : Seq) : (s.latch i q).result = s.result := rfl
@[simp] theorem latch_frmLen (s : State) (i : Instr) (q : Seq) : (s.latch i q).frmLen = s.frmLen := rfl
@[simp] theorem latch_payCnt (s : State) (i : Instr) (q : Seq) : (s.latch i q).payCnt = s.payCnt := rfl
@[simp] theorem latch_crcStored (s : State) (i : Instr) (q : Seq) : (s.latch i q).crcStored = s.crcStored := rfl
@[simp] theorem latch_crcComputed (s : State) (i : Instr) (q : Seq) : (s.latch i q).crcComputed = s.crcComputed := rfl
@[simp] theorem latch_hdr (s : State) (i : Instr) (q : Seq) : (s.latch i q).hdr = s.hdr := rfl
@[simp] theorem latch_ftr (s : State) (i : Instr) (q : Seq) : (s.latch i q).ftr = s.ftr := rfl
@[simp] theorem latch_seq (s : State) (i : Instr) (q : Seq) : (s.latch i q).seq = q := rfl
@[simp] theorem latch_op (s : State) (i : Instr) (q : Seq) : (s.latch i q).op = opcode i := rfl
@[simp] theorem latch_acc (s : State) (i : Instr) (q : Seq) : (s.latch i q).acc = s.acc := rfl
@[simp] theorem latch_mem (s : State) (i : Instr) (q : Seq) : (s.latch i q).mem = s.mem := rfl
@[simp] theorem latch_rx (s : State) (i : Instr) (q : Seq) : (s.latch i q).rx = s.rx := rfl
@[simp] theorem latch_tx (s : State) (i : Instr) (q : Seq) : (s.latch i q).tx = s.tx := rfl
@[simp] theorem latch_sent (s : State) (i : Instr) (q : Seq) : (s.latch i q).sent = s.sent := rfl
@[simp] theorem latch_response (s : State) (i : Instr) (q : Seq) : (s.latch i q).response = s.response := rfl
@[simp] theorem latch_agenda (s : State) (i : Instr) (q : Seq) : (s.latch i q).agenda = s.agenda := rfl

/-! ## An illegal word (rule R102) -/

@[simp] theorem illegalCommand_cfg (s : State) : (s.illegalCommand).cfg = s.cfg := rfl
@[simp] theorem illegalCommand_status (s : State) : (s.illegalCommand).status = { s.status.clearForIssue with rc := .illegalCommand, done := true } := rfl
@[simp] theorem illegalCommand_ie (s : State) : (s.illegalCommand).ie = s.ie := rfl
@[simp] theorem illegalCommand_argLen (s : State) : (s.illegalCommand).argLen = s.argLen := rfl
@[simp] theorem illegalCommand_argCrc (s : State) : (s.illegalCommand).argCrc = s.argCrc := rfl
@[simp] theorem illegalCommand_result (s : State) : (s.illegalCommand).result = s.result := rfl
@[simp] theorem illegalCommand_frmLen (s : State) : (s.illegalCommand).frmLen = s.frmLen := rfl
@[simp] theorem illegalCommand_payCnt (s : State) : (s.illegalCommand).payCnt = s.payCnt := rfl
@[simp] theorem illegalCommand_crcStored (s : State) : (s.illegalCommand).crcStored = s.crcStored := rfl
@[simp] theorem illegalCommand_crcComputed (s : State) : (s.illegalCommand).crcComputed = s.crcComputed := rfl
@[simp] theorem illegalCommand_hdr (s : State) : (s.illegalCommand).hdr = s.hdr := rfl
@[simp] theorem illegalCommand_ftr (s : State) : (s.illegalCommand).ftr = s.ftr := rfl
@[simp] theorem illegalCommand_seq (s : State) : (s.illegalCommand).seq = s.seq := rfl
@[simp] theorem illegalCommand_op (s : State) : (s.illegalCommand).op = s.op := rfl
@[simp] theorem illegalCommand_acc (s : State) : (s.illegalCommand).acc = s.acc := rfl
@[simp] theorem illegalCommand_mem (s : State) : (s.illegalCommand).mem = s.mem := rfl
@[simp] theorem illegalCommand_rx (s : State) : (s.illegalCommand).rx = s.rx := rfl
@[simp] theorem illegalCommand_tx (s : State) : (s.illegalCommand).tx = s.tx := rfl
@[simp] theorem illegalCommand_sent (s : State) : (s.illegalCommand).sent = s.sent := rfl
@[simp] theorem illegalCommand_response (s : State) : (s.illegalCommand).response = s.response := rfl
@[simp] theorem illegalCommand_agenda (s : State) : (s.illegalCommand).agenda = s.agenda := rfl

/-! ## A dropped CMD write (rule R103) -/

@[simp] theorem dropCommand_cfg (s : State) : (s.dropCommand).cfg = s.cfg := rfl
@[simp] theorem dropCommand_status (s : State) : (s.dropCommand).status = { s.status with ovr := true } := rfl
@[simp] theorem dropCommand_ie (s : State) : (s.dropCommand).ie = s.ie := rfl
@[simp] theorem dropCommand_argLen (s : State) : (s.dropCommand).argLen = s.argLen := rfl
@[simp] theorem dropCommand_argCrc (s : State) : (s.dropCommand).argCrc = s.argCrc := rfl
@[simp] theorem dropCommand_result (s : State) : (s.dropCommand).result = s.result := rfl
@[simp] theorem dropCommand_frmLen (s : State) : (s.dropCommand).frmLen = s.frmLen := rfl
@[simp] theorem dropCommand_payCnt (s : State) : (s.dropCommand).payCnt = s.payCnt := rfl
@[simp] theorem dropCommand_crcStored (s : State) : (s.dropCommand).crcStored = s.crcStored := rfl
@[simp] theorem dropCommand_crcComputed (s : State) : (s.dropCommand).crcComputed = s.crcComputed := rfl
@[simp] theorem dropCommand_hdr (s : State) : (s.dropCommand).hdr = s.hdr := rfl
@[simp] theorem dropCommand_ftr (s : State) : (s.dropCommand).ftr = s.ftr := rfl
@[simp] theorem dropCommand_seq (s : State) : (s.dropCommand).seq = s.seq := rfl
@[simp] theorem dropCommand_op (s : State) : (s.dropCommand).op = s.op := rfl
@[simp] theorem dropCommand_acc (s : State) : (s.dropCommand).acc = s.acc := rfl
@[simp] theorem dropCommand_mem (s : State) : (s.dropCommand).mem = s.mem := rfl
@[simp] theorem dropCommand_rx (s : State) : (s.dropCommand).rx = s.rx := rfl
@[simp] theorem dropCommand_tx (s : State) : (s.dropCommand).tx = s.tx := rfl
@[simp] theorem dropCommand_sent (s : State) : (s.dropCommand).sent = s.sent := rfl
@[simp] theorem dropCommand_response (s : State) : (s.dropCommand).response = s.response := rfl
@[simp] theorem dropCommand_agenda (s : State) : (s.dropCommand).agenda = s.agenda := rfl

/-! ## A header byte counted (rules R78, R93) -/

@[simp] theorem countHdr_cfg (s : State) : (s.countHdr).cfg = s.cfg := rfl
@[simp] theorem countHdr_status (s : State) : (s.countHdr).status = { s.status with hdrCnt := s.status.hdrCnt + 1 } := rfl
@[simp] theorem countHdr_ie (s : State) : (s.countHdr).ie = s.ie := rfl
@[simp] theorem countHdr_argLen (s : State) : (s.countHdr).argLen = s.argLen := rfl
@[simp] theorem countHdr_argCrc (s : State) : (s.countHdr).argCrc = s.argCrc := rfl
@[simp] theorem countHdr_result (s : State) : (s.countHdr).result = s.result := rfl
@[simp] theorem countHdr_frmLen (s : State) : (s.countHdr).frmLen = s.frmLen := rfl
@[simp] theorem countHdr_payCnt (s : State) : (s.countHdr).payCnt = s.payCnt := rfl
@[simp] theorem countHdr_crcStored (s : State) : (s.countHdr).crcStored = s.crcStored := rfl
@[simp] theorem countHdr_crcComputed (s : State) : (s.countHdr).crcComputed = s.crcComputed := rfl
@[simp] theorem countHdr_hdr (s : State) : (s.countHdr).hdr = s.hdr := rfl
@[simp] theorem countHdr_ftr (s : State) : (s.countHdr).ftr = s.ftr := rfl
@[simp] theorem countHdr_seq (s : State) : (s.countHdr).seq = s.seq := rfl
@[simp] theorem countHdr_op (s : State) : (s.countHdr).op = s.op := rfl
@[simp] theorem countHdr_acc (s : State) : (s.countHdr).acc = s.acc := rfl
@[simp] theorem countHdr_mem (s : State) : (s.countHdr).mem = s.mem := rfl
@[simp] theorem countHdr_rx (s : State) : (s.countHdr).rx = s.rx := rfl
@[simp] theorem countHdr_tx (s : State) : (s.countHdr).tx = s.tx := rfl
@[simp] theorem countHdr_sent (s : State) : (s.countHdr).sent = s.sent := rfl
@[simp] theorem countHdr_response (s : State) : (s.countHdr).response = s.response := rfl
@[simp] theorem countHdr_agenda (s : State) : (s.countHdr).agenda = s.agenda := rfl

/-! ## A payload byte counted (rules R82, R94) -/

@[simp] theorem countPay_cfg (s : State) : (s.countPay).cfg = s.cfg := rfl
@[simp] theorem countPay_status (s : State) : (s.countPay).status = s.status := rfl
@[simp] theorem countPay_ie (s : State) : (s.countPay).ie = s.ie := rfl
@[simp] theorem countPay_argLen (s : State) : (s.countPay).argLen = s.argLen := rfl
@[simp] theorem countPay_argCrc (s : State) : (s.countPay).argCrc = s.argCrc := rfl
@[simp] theorem countPay_result (s : State) : (s.countPay).result = s.result := rfl
@[simp] theorem countPay_frmLen (s : State) : (s.countPay).frmLen = s.frmLen := rfl
@[simp] theorem countPay_payCnt (s : State) : (s.countPay).payCnt = s.payCnt + 1 := rfl
@[simp] theorem countPay_crcStored (s : State) : (s.countPay).crcStored = s.crcStored := rfl
@[simp] theorem countPay_crcComputed (s : State) : (s.countPay).crcComputed = s.crcComputed := rfl
@[simp] theorem countPay_hdr (s : State) : (s.countPay).hdr = s.hdr := rfl
@[simp] theorem countPay_ftr (s : State) : (s.countPay).ftr = s.ftr := rfl
@[simp] theorem countPay_seq (s : State) : (s.countPay).seq = s.seq := rfl
@[simp] theorem countPay_op (s : State) : (s.countPay).op = s.op := rfl
@[simp] theorem countPay_acc (s : State) : (s.countPay).acc = s.acc := rfl
@[simp] theorem countPay_mem (s : State) : (s.countPay).mem = s.mem := rfl
@[simp] theorem countPay_rx (s : State) : (s.countPay).rx = s.rx := rfl
@[simp] theorem countPay_tx (s : State) : (s.countPay).tx = s.tx := rfl
@[simp] theorem countPay_sent (s : State) : (s.countPay).sent = s.sent := rfl
@[simp] theorem countPay_response (s : State) : (s.countPay).response = s.response := rfl
@[simp] theorem countPay_agenda (s : State) : (s.countPay).agenda = s.agenda := rfl

/-! ## A footer byte counted (rules R84, R95) -/

@[simp] theorem countFtr_cfg (s : State) : (s.countFtr).cfg = s.cfg := rfl
@[simp] theorem countFtr_status (s : State) : (s.countFtr).status = { s.status with ftrCnt := s.status.ftrCnt + 1 } := rfl
@[simp] theorem countFtr_ie (s : State) : (s.countFtr).ie = s.ie := rfl
@[simp] theorem countFtr_argLen (s : State) : (s.countFtr).argLen = s.argLen := rfl
@[simp] theorem countFtr_argCrc (s : State) : (s.countFtr).argCrc = s.argCrc := rfl
@[simp] theorem countFtr_result (s : State) : (s.countFtr).result = s.result := rfl
@[simp] theorem countFtr_frmLen (s : State) : (s.countFtr).frmLen = s.frmLen := rfl
@[simp] theorem countFtr_payCnt (s : State) : (s.countFtr).payCnt = s.payCnt := rfl
@[simp] theorem countFtr_crcStored (s : State) : (s.countFtr).crcStored = s.crcStored := rfl
@[simp] theorem countFtr_crcComputed (s : State) : (s.countFtr).crcComputed = s.crcComputed := rfl
@[simp] theorem countFtr_hdr (s : State) : (s.countFtr).hdr = s.hdr := rfl
@[simp] theorem countFtr_ftr (s : State) : (s.countFtr).ftr = s.ftr := rfl
@[simp] theorem countFtr_seq (s : State) : (s.countFtr).seq = s.seq := rfl
@[simp] theorem countFtr_op (s : State) : (s.countFtr).op = s.op := rfl
@[simp] theorem countFtr_acc (s : State) : (s.countFtr).acc = s.acc := rfl
@[simp] theorem countFtr_mem (s : State) : (s.countFtr).mem = s.mem := rfl
@[simp] theorem countFtr_rx (s : State) : (s.countFtr).rx = s.rx := rfl
@[simp] theorem countFtr_tx (s : State) : (s.countFtr).tx = s.tx := rfl
@[simp] theorem countFtr_sent (s : State) : (s.countFtr).sent = s.sent := rfl
@[simp] theorem countFtr_response (s : State) : (s.countFtr).response = s.response := rfl
@[simp] theorem countFtr_agenda (s : State) : (s.countFtr).agenda = s.agenda := rfl

/-! ## The record of the length check (rule R80) -/

@[simp] theorem compareLength_cfg (s : State) : (compareLength s).cfg = s.cfg := rfl
@[simp] theorem compareLength_status (s : State) : (compareLength s).status = { s.status with crcsel := false } := rfl
@[simp] theorem compareLength_ie (s : State) : (compareLength s).ie = s.ie := rfl
@[simp] theorem compareLength_argLen (s : State) : (compareLength s).argLen = s.argLen := rfl
@[simp] theorem compareLength_argCrc (s : State) : (compareLength s).argCrc = s.argCrc := rfl
@[simp] theorem compareLength_result (s : State) : (compareLength s).result = s.result := rfl
@[simp] theorem compareLength_frmLen (s : State) : (compareLength s).frmLen = rdle8 (hdrLen s.hdr) := rfl
@[simp] theorem compareLength_payCnt (s : State) : (compareLength s).payCnt = s.payCnt := rfl
@[simp] theorem compareLength_crcStored (s : State) : (compareLength s).crcStored = rdle4 (hdrCrc s.hdr) := rfl
@[simp] theorem compareLength_crcComputed (s : State) : (compareLength s).crcComputed = mask (crc32c (hdrLen s.hdr).toList) := rfl
@[simp] theorem compareLength_hdr (s : State) : (compareLength s).hdr = s.hdr := rfl
@[simp] theorem compareLength_ftr (s : State) : (compareLength s).ftr = s.ftr := rfl
@[simp] theorem compareLength_seq (s : State) : (compareLength s).seq = s.seq := rfl
@[simp] theorem compareLength_op (s : State) : (compareLength s).op = s.op := rfl
@[simp] theorem compareLength_acc (s : State) : (compareLength s).acc = s.acc := rfl
@[simp] theorem compareLength_mem (s : State) : (compareLength s).mem = s.mem := rfl
@[simp] theorem compareLength_rx (s : State) : (compareLength s).rx = s.rx := rfl
@[simp] theorem compareLength_tx (s : State) : (compareLength s).tx = s.tx := rfl
@[simp] theorem compareLength_sent (s : State) : (compareLength s).sent = s.sent := rfl
@[simp] theorem compareLength_response (s : State) : (compareLength s).response = s.response := rfl
@[simp] theorem compareLength_agenda (s : State) : (compareLength s).agenda = s.agenda := rfl

/-! ## The record of the data check (rule R86) -/

@[simp] theorem compareData_cfg (s : State) : (compareData s).cfg = s.cfg := rfl
@[simp] theorem compareData_status (s : State) : (compareData s).status = { s.status with crcsel := true } := rfl
@[simp] theorem compareData_ie (s : State) : (compareData s).ie = s.ie := rfl
@[simp] theorem compareData_argLen (s : State) : (compareData s).argLen = s.argLen := rfl
@[simp] theorem compareData_argCrc (s : State) : (compareData s).argCrc = s.argCrc := rfl
@[simp] theorem compareData_result (s : State) : (compareData s).result = s.result := rfl
@[simp] theorem compareData_frmLen (s : State) : (compareData s).frmLen = s.frmLen := rfl
@[simp] theorem compareData_payCnt (s : State) : (compareData s).payCnt = s.payCnt := rfl
@[simp] theorem compareData_crcStored (s : State) : (compareData s).crcStored = rdle4 s.ftr := rfl
@[simp] theorem compareData_crcComputed (s : State) : (compareData s).crcComputed = mask (s.acc ^^^ 0xFFFFFFFF#32) := rfl
@[simp] theorem compareData_hdr (s : State) : (compareData s).hdr = s.hdr := rfl
@[simp] theorem compareData_ftr (s : State) : (compareData s).ftr = s.ftr := rfl
@[simp] theorem compareData_seq (s : State) : (compareData s).seq = s.seq := rfl
@[simp] theorem compareData_op (s : State) : (compareData s).op = s.op := rfl
@[simp] theorem compareData_acc (s : State) : (compareData s).acc = s.acc := rfl
@[simp] theorem compareData_mem (s : State) : (compareData s).mem = s.mem := rfl
@[simp] theorem compareData_rx (s : State) : (compareData s).rx = s.rx := rfl
@[simp] theorem compareData_tx (s : State) : (compareData s).tx = s.tx := rfl
@[simp] theorem compareData_sent (s : State) : (compareData s).sent = s.sent := rfl
@[simp] theorem compareData_response (s : State) : (compareData s).response = s.response := rfl
@[simp] theorem compareData_agenda (s : State) : (compareData s).agenda = s.agenda := rfl

/-! ## VALID (rule R86) -/

@[simp] theorem accept_cfg (s : State) : (accept s).cfg = s.cfg := rfl
@[simp] theorem accept_status (s : State) : (accept s).status = { s.status with valid := true } := rfl
@[simp] theorem accept_ie (s : State) : (accept s).ie = s.ie := rfl
@[simp] theorem accept_argLen (s : State) : (accept s).argLen = s.argLen := rfl
@[simp] theorem accept_argCrc (s : State) : (accept s).argCrc = s.argCrc := rfl
@[simp] theorem accept_result (s : State) : (accept s).result = s.result := rfl
@[simp] theorem accept_frmLen (s : State) : (accept s).frmLen = s.frmLen := rfl
@[simp] theorem accept_payCnt (s : State) : (accept s).payCnt = s.payCnt := rfl
@[simp] theorem accept_crcStored (s : State) : (accept s).crcStored = s.crcStored := rfl
@[simp] theorem accept_crcComputed (s : State) : (accept s).crcComputed = s.crcComputed := rfl
@[simp] theorem accept_hdr (s : State) : (accept s).hdr = s.hdr := rfl
@[simp] theorem accept_ftr (s : State) : (accept s).ftr = s.ftr := rfl
@[simp] theorem accept_seq (s : State) : (accept s).seq = s.seq := rfl
@[simp] theorem accept_op (s : State) : (accept s).op = s.op := rfl
@[simp] theorem accept_acc (s : State) : (accept s).acc = s.acc := rfl
@[simp] theorem accept_mem (s : State) : (accept s).mem = s.mem := rfl
@[simp] theorem accept_rx (s : State) : (accept s).rx = s.rx := rfl
@[simp] theorem accept_tx (s : State) : (accept s).tx = s.tx := rfl
@[simp] theorem accept_sent (s : State) : (accept s).sent = s.sent := rfl
@[simp] theorem accept_response (s : State) : (accept s).response = s.response := rfl
@[simp] theorem accept_agenda (s : State) : (accept s).agenda = s.agenda := rfl

/-! ## The start of a frame (rule R92) -/

@[simp] theorem startFrame_cfg (s : State) : (startFrame s).cfg = s.cfg := rfl
@[simp] theorem startFrame_status (s : State) : (startFrame s).status = s.status := rfl
@[simp] theorem startFrame_ie (s : State) : (startFrame s).ie = s.ie := rfl
@[simp] theorem startFrame_argLen (s : State) : (startFrame s).argLen = s.argLen := rfl
@[simp] theorem startFrame_argCrc (s : State) : (startFrame s).argCrc = s.argCrc := rfl
@[simp] theorem startFrame_result (s : State) : (startFrame s).result = s.result := rfl
@[simp] theorem startFrame_frmLen (s : State) : (startFrame s).frmLen = s.argLen := rfl
@[simp] theorem startFrame_payCnt (s : State) : (startFrame s).payCnt = 0 := rfl
@[simp] theorem startFrame_crcStored (s : State) : (startFrame s).crcStored = s.crcStored := rfl
@[simp] theorem startFrame_crcComputed (s : State) : (startFrame s).crcComputed = s.crcComputed := rfl
@[simp] theorem startFrame_hdr (s : State) : (startFrame s).hdr = s.hdr := rfl
@[simp] theorem startFrame_ftr (s : State) : (startFrame s).ftr = s.ftr := rfl
@[simp] theorem startFrame_seq (s : State) : (startFrame s).seq = s.seq := rfl
@[simp] theorem startFrame_op (s : State) : (startFrame s).op = s.op := rfl
@[simp] theorem startFrame_acc (s : State) : (startFrame s).acc = s.acc := rfl
@[simp] theorem startFrame_mem (s : State) : (startFrame s).mem = s.mem := rfl
@[simp] theorem startFrame_rx (s : State) : (startFrame s).rx = s.rx := rfl
@[simp] theorem startFrame_tx (s : State) : (startFrame s).tx = s.tx := rfl
@[simp] theorem startFrame_sent (s : State) : (startFrame s).sent = s.sent := rfl
@[simp] theorem startFrame_response (s : State) : (startFrame s).response = s.response := rfl
@[simp] theorem startFrame_agenda (s : State) : (startFrame s).agenda = s.agenda := rfl

/-! ## The bus's answer (rule R36) -/

@[simp] theorem respond_cfg (s : State) (a : BusResponse) : (s.respond a).cfg = s.cfg := rfl
@[simp] theorem respond_status (s : State) (a : BusResponse) : (s.respond a).status = s.status := rfl
@[simp] theorem respond_ie (s : State) (a : BusResponse) : (s.respond a).ie = s.ie := rfl
@[simp] theorem respond_argLen (s : State) (a : BusResponse) : (s.respond a).argLen = s.argLen := rfl
@[simp] theorem respond_argCrc (s : State) (a : BusResponse) : (s.respond a).argCrc = s.argCrc := rfl
@[simp] theorem respond_result (s : State) (a : BusResponse) : (s.respond a).result = s.result := rfl
@[simp] theorem respond_frmLen (s : State) (a : BusResponse) : (s.respond a).frmLen = s.frmLen := rfl
@[simp] theorem respond_payCnt (s : State) (a : BusResponse) : (s.respond a).payCnt = s.payCnt := rfl
@[simp] theorem respond_crcStored (s : State) (a : BusResponse) : (s.respond a).crcStored = s.crcStored := rfl
@[simp] theorem respond_crcComputed (s : State) (a : BusResponse) : (s.respond a).crcComputed = s.crcComputed := rfl
@[simp] theorem respond_hdr (s : State) (a : BusResponse) : (s.respond a).hdr = s.hdr := rfl
@[simp] theorem respond_ftr (s : State) (a : BusResponse) : (s.respond a).ftr = s.ftr := rfl
@[simp] theorem respond_seq (s : State) (a : BusResponse) : (s.respond a).seq = s.seq := rfl
@[simp] theorem respond_op (s : State) (a : BusResponse) : (s.respond a).op = s.op := rfl
@[simp] theorem respond_acc (s : State) (a : BusResponse) : (s.respond a).acc = s.acc := rfl
@[simp] theorem respond_mem (s : State) (a : BusResponse) : (s.respond a).mem = s.mem := rfl
@[simp] theorem respond_rx (s : State) (a : BusResponse) : (s.respond a).rx = s.rx := rfl
@[simp] theorem respond_tx (s : State) (a : BusResponse) : (s.respond a).tx = s.tx := rfl
@[simp] theorem respond_sent (s : State) (a : BusResponse) : (s.respond a).sent = s.sent := rfl
@[simp] theorem respond_response (s : State) (a : BusResponse) : (s.respond a).response = some a := rfl
@[simp] theorem respond_agenda (s : State) (a : BusResponse) : (s.respond a).agenda = s.agenda := rfl

/-! ## Reset (rule R112) -/

@[simp] theorem applyReset_cfg (s : State) : s.applyReset.cfg = s.cfg := rfl
@[simp] theorem applyReset_status (s : State) : s.applyReset.status = Status.reset := rfl
@[simp] theorem applyReset_ie (s : State) : s.applyReset.ie = false := rfl
@[simp] theorem applyReset_argLen (s : State) : s.applyReset.argLen = 0 := rfl
@[simp] theorem applyReset_argCrc (s : State) : s.applyReset.argCrc = 0 := rfl
@[simp] theorem applyReset_result (s : State) : s.applyReset.result = 0 := rfl
@[simp] theorem applyReset_frmLen (s : State) : s.applyReset.frmLen = 0 := rfl
@[simp] theorem applyReset_payCnt (s : State) : s.applyReset.payCnt = 0 := rfl
@[simp] theorem applyReset_crcStored (s : State) : s.applyReset.crcStored = 0 := rfl
@[simp] theorem applyReset_crcComputed (s : State) : s.applyReset.crcComputed = 0 := rfl
@[simp] theorem applyReset_hdr (s : State) : s.applyReset.hdr = Vector.replicate 12 0 := rfl
@[simp] theorem applyReset_ftr (s : State) : s.applyReset.ftr = Vector.replicate 4 0 := rfl
@[simp] theorem applyReset_seq (s : State) : s.applyReset.seq = .idle := rfl
@[simp] theorem applyReset_op (s : State) : s.applyReset.op = 0 := rfl
@[simp] theorem applyReset_acc (s : State) : s.applyReset.acc = 0 := rfl
@[simp] theorem applyReset_mem (s : State) : s.applyReset.mem = s.mem := rfl
@[simp] theorem applyReset_rx (s : State) : s.applyReset.rx = s.rx := rfl
@[simp] theorem applyReset_tx (s : State) : s.applyReset.tx = s.tx := rfl
@[simp] theorem applyReset_sent (s : State) : s.applyReset.sent = s.sent := rfl
@[simp] theorem applyReset_response (s : State) : s.applyReset.response = s.response := rfl
@[simp] theorem applyReset_agenda (s : State) : s.applyReset.agenda = s.agenda := rfl

/-! ## The fields of STATUS -/

@[simp] theorem statusFinish_busy (f : Status) (rc : ResultCode) : (f.finish rc).busy = false := rfl
@[simp] theorem statusFinish_done (f : Status) (rc : ResultCode) : (f.finish rc).done = true := rfl
@[simp] theorem statusFinish_valid (f : Status) (rc : ResultCode) : (f.finish rc).valid = f.valid := rfl
@[simp] theorem statusFinish_ovr (f : Status) (rc : ResultCode) : (f.finish rc).ovr = f.ovr := rfl
@[simp] theorem statusFinish_carry (f : Status) (rc : ResultCode) : (f.finish rc).carry = f.carry := rfl
@[simp] theorem statusFinish_crcsel (f : Status) (rc : ResultCode) : (f.finish rc).crcsel = f.crcsel := rfl
@[simp] theorem statusFinish_rc (f : Status) (rc : ResultCode) : (f.finish rc).rc = rc := rfl
@[simp] theorem statusFinish_hdrCnt (f : Status) (rc : ResultCode) : (f.finish rc).hdrCnt = f.hdrCnt := rfl
@[simp] theorem statusFinish_ftrCnt (f : Status) (rc : ResultCode) : (f.finish rc).ftrCnt = f.ftrCnt := rfl
@[simp] theorem statusClear_busy (f : Status) : f.clearForIssue.busy = f.busy := rfl
@[simp] theorem statusClear_done (f : Status) : f.clearForIssue.done = false := rfl
@[simp] theorem statusClear_valid (f : Status) : f.clearForIssue.valid = false := rfl
@[simp] theorem statusClear_ovr (f : Status) : f.clearForIssue.ovr = false := rfl
@[simp] theorem statusClear_carry (f : Status) : f.clearForIssue.carry = false := rfl
@[simp] theorem statusClear_crcsel (f : Status) : f.clearForIssue.crcsel = false := rfl
@[simp] theorem statusClear_rc (f : Status) : f.clearForIssue.rc = .ok := rfl
@[simp] theorem statusClear_hdrCnt (f : Status) : f.clearForIssue.hdrCnt = 0 := rfl
@[simp] theorem statusClear_ftrCnt (f : Status) : f.clearForIssue.ftrCnt = 0 := rfl

@[simp] theorem pbufBytes_finish (s : State) (rc : ResultCode) :
    (s.finish rc).pbufBytes = s.pbufBytes := rfl

end Sys2Proof.Machine
end

