-- ==== Sys2Proof/Laws/Ops.lean ====
section
/-! SUPPORT. One lemma per shared operation: everything it can answer. -/

namespace Sys2Proof.Machine

/-- Everything ChanRead() can answer (rules R48, R50, R79). -/
theorem chanRead_cases (s : State) :
    (s.rx = [] ∧ s.chanRead = none) ∨
    (∃ b r, s.rx = .byte b :: r ∧ s.chanRead = some (.byte b, { s with rx := r })) ∨
    (∃ r, s.rx = .eof :: r ∧ s.chanRead = some (.eof, s)) ∨
    (∃ r, s.rx = .fail :: r ∧ s.chanRead = some (.fail, { s with rx := r })) := by
  unfold State.chanRead
  rcases h : s.rx with _ | ⟨_ | _ | _, r⟩ <;> simp

/-- Everything ChanWrite(b) can answer (rules R49, R50). -/
theorem chanWrite_cases (s : State) (b : Byte) :
    (s.tx = [] ∧ s.chanWrite b = none) ∨
    (∃ r, s.tx = .ok :: r ∧ s.chanWrite b = some (.ok, { s with tx := r, sent := s.sent ++ [b] })) ∨
    (∃ r, s.tx = .fail :: r ∧ s.chanWrite b = some (.fail, { s with tx := r })) := by
  unfold State.chanWrite
  rcases h : s.tx with _ | ⟨_ | _, r⟩ <;> simp

/-- A one-step command is issued, run or dropped, by the state alone (rules R101, R103). -/
theorem oneStep_cases (i : Instr) (effect : State → Result) (s : State) :
    (s.status.busy = false ∧ oneStep i effect s = .next (s.latch i .pure)) ∨
    (s.status.busy = true ∧ s.seq = .pure ∧ s.op = opcode i ∧ oneStep i effect s = effect s) ∨
    (s.status.busy = true ∧ ¬(s.seq = .pure ∧ s.op = opcode i) ∧
      oneStep i effect s = .next s.dropCommand) := by
  unfold oneStep
  cases hb : s.status.busy
  · simp
  · by_cases h : s.seq = .pure ∧ s.op = opcode i
    · simp [h.1, h.2]
    · simp [h]

/-- A reading step waits, fails, meets end-of-stream or takes a byte (rules R48, R50, R87, R106). -/
theorem readingStep_cases (onByte : State → Byte → Result) (onEof : State → State) (s : State) :
    (s.rx = [] ∧ readingStep onByte onEof s = .next s) ∨
    (∃ b r, s.rx = .byte b :: r ∧ readingStep onByte onEof s = onByte { s with rx := r } b) ∨
    (∃ r, s.rx = .eof :: r ∧ readingStep onByte onEof s = .next (onEof s)) ∨
    (∃ r, s.rx = .fail :: r ∧
      readingStep onByte onEof s = .next ({ s with rx := r }.finish .ioFailure)) := by
  unfold readingStep
  rcases chanRead_cases s with ⟨h, e⟩ | ⟨b, r, h, e⟩ | ⟨r, h, e⟩ | ⟨r, h, e⟩ <;> simp [h, e]

/-- A writing step waits, commits its byte or fails (rules R49, R50, R96). -/
theorem writingStep_cases (b : Byte) (onOk : State → State) (s : State) :
    (s.tx = [] ∧ writingStep b onOk s = .next s) ∨
    (∃ r, s.tx = .ok :: r ∧
      writingStep b onOk s = .next (onOk { s with tx := r, sent := s.sent ++ [b] })) ∨
    (∃ r, s.tx = .fail :: r ∧
      writingStep b onOk s = .next ({ s with tx := r }.finish .ioFailure)) := by
  unfold writingStep
  rcases chanWrite_cases s b with ⟨h, e⟩ | ⟨r, h, e⟩ | ⟨r, h, e⟩ <;> simp [h, e]

/-- The capacity check ends the command or starts its payload or footer (rule R81). -/
theorem capacityCheck_cases (s : State) :
    (s.pbufBytes < s.frmLen.toNat ∧ capacityCheck s = s.finish .lengthUnsupported) ∨
    (s.frmLen = 0 ∧ capacityCheck s = { s with acc := crcInit, seq := .decFtr }) ∨
    (s.frmLen ≠ 0 ∧ s.frmLen.toNat ≤ s.pbufBytes ∧
      capacityCheck s = { s with acc := crcInit, seq := .decPay }) := by
  unfold capacityCheck
  split
  · next h => exact .inl ⟨h, rfl⟩
  · next h =>
    by_cases h0 : s.frmLen = 0
    · exact .inr (.inl ⟨h0, by rw [if_pos h0]⟩)
    · exact .inr (.inr ⟨h0, Nat.le_of_not_lt h, by rw [if_neg h0]⟩)

/-- The length check records both values, then ends the command or goes on (rules R80, R81). -/
theorem lengthCheck_cases (s : State) :
    (mask (crc32c (hdrLen s.hdr).toList) ≠ rdle4 (hdrCrc s.hdr) ∧
      lengthCheck s = (compareLength s).finish .checksumMismatch) ∨
    (mask (crc32c (hdrLen s.hdr).toList) = rdle4 (hdrCrc s.hdr) ∧
      lengthCheck s = capacityCheck (compareLength s)) := by
  unfold lengthCheck
  split
  · next h => exact .inr ⟨h, rfl⟩
  · next h => exact .inl ⟨h, rfl⟩

/-- The data check records both values, then accepts the record or refuses it (rule R86). -/
theorem dataCheck_cases (s : State) :
    (mask (s.acc ^^^ 0xFFFFFFFF#32) ≠ rdle4 s.ftr ∧
      dataCheck s = (compareData s).finish .checksumMismatch) ∨
    (mask (s.acc ^^^ 0xFFFFFFFF#32) = rdle4 s.ftr ∧
      dataCheck s = (accept (compareData s)).finish .ok) := by
  unfold dataCheck
  split
  · next h => exact .inr ⟨h, rfl⟩
  · next h => exact .inl ⟨h, rfl⟩

end Sys2Proof.Machine
end

