-- ==== Sys2Proof/Laws/Bus.lean ====
section
/-! SUPPORT. The register map and everything a host access or a turn of the sequencer can answer. -/

namespace Sys2Proof.Machine

/-- Each register stands at its own offset (rule R14). -/
@[simp] theorem regAt_regOffset (r : Reg) : regAt (regOffset r) = some r := by
  cases r <;> decide

theorem regOffset_of_regAt {off : Word} {r : Reg} (h : regAt off = some r) : regOffset r = off := by
  have := List.find?_some h
  simpa using this

theorem regOffset_lt (r : Reg) : (regOffset r).toNat < pbufBase := by
  cases r <;> decide

/-- A register access is four bytes at a mapped offset (rule R37). -/
theorem regAccess_eq_some {off : Word} {size : BusSize} {r : Reg} :
    regAccess off size = some r ↔ size = .b4 ∧ off = regOffset r := by
  unfold regAccess
  by_cases h : size = .b4
  · simp only [h, if_true, true_and]
    exact ⟨fun e => (regOffset_of_regAt e).symm, fun e => e ▸ regAt_regOffset r⟩
  · simp [h]

/-- A read answers the host and changes nothing else, or reads an unwritten byte (rules R44, R32). -/
theorem hostRead_cases (s : State) (off : Word) (size : BusSize) :
    (∃ a, hostRead s off size = .next (s.respond a)) ∨
    (∃ i, hostRead s off size = .fault (.unwrittenRead i) ∧
      s.mem.bytes (off.toNat - pbufBase) size.bytes = .error i ∧ pbufLegal s off size = true) := by
  unfold hostRead
  split
  · split <;> exact .inl ⟨_, rfl⟩
  · split
    · next hl =>
      cases h : s.mem.bytes (off.toNat - pbufBase) size.bytes with
      | error i => exact .inr ⟨i, rfl, rfl, hl⟩
      | ok bs => exact .inl ⟨_, rfl⟩
    · exact .inl ⟨_, rfl⟩

/-- A CMD write is dropped, issues the command or reports the word illegal (rules R101 to R103). -/
theorem cmdWrite_cases (s : State) (w : Word) :
    (s.status.busy = true ∧ cmdWrite s w = .next s.dropCommand) ∨
    (s.status.busy = false ∧ ∃ i, decodeWord w = .command i ∧ cmdWrite s w = exec i s) ∨
    (s.status.busy = false ∧ ∃ e, decodeWord w = .illegal e ∧
      cmdWrite s w = .next s.illegalCommand) := by
  unfold cmdWrite
  cases hb : s.status.busy
  · cases hd : decodeWord w <;> simp
  · simp

/-- A free machine takes any command: what each issue leaves (rules R101, R77, R91). -/
theorem exec_issue (i : Instr) (s : State) (h : s.status.busy = false) :
    exec i s = .next (match i with
      | .decode => decodeIssue s
      | .encode => s.latch .encode .encStart
      | j => s.latch j .pure) := by
  cases i <;>
    simp [exec, execCrc32c, execMask, execLenenc, execHdrasm, execReclen, execDecode, execEncode,
      oneStep, h]

/-- A register write that CMD does not take (rules R37, R39, R42): answered, refused or stored. -/
theorem hostWriteReg_cases (s : State) (r : Reg) (v : Word) :
    (r = .cmd ∧ hostWriteReg s r v = cmdWrite (s.respond .ok) v) ∨
    (r ≠ .cmd ∧ hostWriteReg s r v = .next (s.respond .busError) ∧ s.status.busy = true) ∨
    (r = .ctrl ∧ hostWriteReg s r v = .next ({ s with ie := v.getLsbD 0 }.respond .ok)) ∨
    (s.status.busy = false ∧ ∃ l c,
      hostWriteReg s r v = .next ({ s with argLen := l, argCrc := c }.respond .ok) ∧
      (r = .argLenLo ∨ r = .argLenHi ∨ r = .argCrc)) ∨
    (r ≠ .cmd ∧ hostWriteReg s r v = .next (s.respond .ok)) := by
  cases r <;> simp only [hostWriteReg, writeReg, reduceCtorEq, false_and, true_and, not_false_iff,
    ne_eq, or_false, false_or, not_true_eq_false, and_true, or_true, true_or]
  case argLenLo => cases hb : s.status.busy <;> simp; exact .inl ⟨_, _, rfl⟩
  case argLenHi => cases hb : s.status.busy <;> simp; exact .inl ⟨_, _, rfl⟩
  case argCrc => cases hb : s.status.busy <;> simp; exact .inl ⟨_, _, rfl⟩

/-- The sequencer's turn: nothing, the next step of a command, or a state no run reaches. -/
theorem sequencerTurn_cases (s : State) :
    (s.status.busy = false ∧ sequencerTurn s = .next s) ∨
    (s.status.busy = true ∧ ∃ i, inProgress s = some i ∧ sequencerTurn s = exec i s) ∨
    (s.status.busy = true ∧ inProgress s = none ∧
      sequencerTurn s = .refused .sequencerOutsideSpec) := by
  unfold sequencerTurn
  cases hb : s.status.busy
  · simp
  · cases hi : inProgress s <;> simp

/-- A step is the sequencer's turn, or performs the head of the agenda. -/
theorem step_cases (s : State) :
    (s.agenda = [] ∧ step s = sequencerTurn s) ∨
    (∃ e rest, s.agenda = e :: rest ∧ step s = perform e { s with agenda := rest }) := by
  unfold step
  rcases h : s.agenda with _ | ⟨e, rest⟩ <;> simp

end Sys2Proof.Machine
end

