-- ==== Sys2Proof/Laws/Run.lean ====
section
/-! SUPPORT. Runs of several steps. -/

namespace Sys2Proof.Machine

@[simp] theorem run_zero (s : State) : run 0 s = .next s := rfl

theorem run_succ_of_next {s t : State} (n : Nat) (h : step s = .next t) :
    run (n + 1) s = run n t := by simp [run, h]

/-- A run splits at any of its states. -/
theorem run_add {s t : State} {n : Nat} (m : Nat) (h : run n s = .next t) :
    run (n + m) s = run m t := by
  induction n generalizing s with
  | zero => cases h; simp
  | succ n ih =>
    rw [Nat.add_right_comm]
    simp only [run] at h ⊢
    split at h
    · exact ih h
    · cases h
    · cases h

/-- An invariant that every step keeps holds after a run. -/
theorem run_keeps {P : State → Prop} (keep : ∀ s t, P s → step s = .next t → P t) {n : Nat}
    {s t : State} (hs : P s) (h : run n s = .next t) : P t := by
  induction n generalizing s with
  | zero => cases h; exact hs
  | succ n ih =>
    simp only [run] at h
    split at h
    · next u hu => exact ih (keep s u hs hu) h
    · cases h
    · cases h

end Sys2Proof.Machine
end

