-- ==== Sys2Proof/Laws/Exec.lean ====
section
/-! SUPPORT. One inversion lemma per command: everything its next step can answer. -/

namespace Sys2Proof.Machine

/-- Everything a step of CRC32C can answer (rules R68, R101, R103). -/
theorem execCrc32c_cases (s : State) :
    (s.status.busy = false ∧ execCrc32c s = .next (s.latch .crc32c .pure)) ∨
    (s.status.busy = true ∧ ¬(s.seq = .pure ∧ s.op = 0x01) ∧ execCrc32c s = .next s.dropCommand) ∨
    (s.status.busy = true ∧ s.seq = .pure ∧ s.op = 0x01 ∧
      ((s.pbufBytes < s.argLen.toNat ∧ execCrc32c s = .next (s.finish .lengthUnsupported)) ∨
       (s.argLen.toNat ≤ s.pbufBytes ∧ ∃ i, s.mem.bytes 0 s.argLen.toNat = .error i ∧
          execCrc32c s = .fault (.unwrittenRead i)) ∨
       (s.argLen.toNat ≤ s.pbufBytes ∧ ∃ p, s.mem.bytes 0 s.argLen.toNat = .ok p ∧
          execCrc32c s = .next ({ s with result := (crc32c p).setWidth 64 }.finish .ok)))) := by
  unfold execCrc32c
  rcases oneStep_cases .crc32c crc32cStep s with ⟨h, e⟩ | ⟨h, hs, ho, e⟩ | ⟨h, hn, e⟩
  · exact .inl ⟨h, e⟩
  · refine .inr (.inr ⟨h, hs, ho, ?_⟩)
    rw [e, crc32cStep]
    split
    · next hl => exact .inl ⟨hl, rfl⟩
    · next hl =>
      have hl := Nat.le_of_not_lt hl
      rw [State.payload]
      split
      · next i hi => exact .inr (.inl ⟨hl, i, hi, rfl⟩)
      · next p hp => exact .inr (.inr ⟨hl, p, hp, rfl⟩)
  · exact .inr (.inl ⟨h, hn, e⟩)

/-- Everything a step of a one-step command that cannot fail answers (rules R69, R72 to R74). -/
theorem execMask_cases (s : State) :
    (s.status.busy = false ∧ execMask s = .next (s.latch .mask .pure)) ∨
    (s.status.busy = true ∧ ¬(s.seq = .pure ∧ s.op = 0x02) ∧ execMask s = .next s.dropCommand) ∨
    (s.status.busy = true ∧ s.seq = .pure ∧ s.op = 0x02 ∧
      execMask s = .next ({ s with result := (mask s.argCrc).setWidth 64 }.finish .ok)) := by
  rcases oneStep_cases .mask maskStep s with ⟨h, e⟩ | ⟨h, hs, ho, e⟩ | ⟨h, hn, e⟩
  · exact .inl ⟨h, e⟩
  · exact .inr (.inr ⟨h, hs, ho, e⟩)
  · exact .inr (.inl ⟨h, hn, e⟩)

theorem execLenenc_cases (s : State) :
    (s.status.busy = false ∧ execLenenc s = .next (s.latch .lenenc .pure)) ∨
    (s.status.busy = true ∧ ¬(s.seq = .pure ∧ s.op = 0x03) ∧ execLenenc s = .next s.dropCommand) ∨
    (s.status.busy = true ∧ s.seq = .pure ∧ s.op = 0x03 ∧
      execLenenc s =
        .next ({ s with hdr := joinHdr (le8 s.argLen) (hdrCrc s.hdr) }.finish .ok)) := by
  rcases oneStep_cases .lenenc lenencStep s with ⟨h, e⟩ | ⟨h, hs, ho, e⟩ | ⟨h, hn, e⟩
  · exact .inl ⟨h, e⟩
  · exact .inr (.inr ⟨h, hs, ho, e⟩)
  · exact .inr (.inl ⟨h, hn, e⟩)

theorem execHdrasm_cases (s : State) :
    (s.status.busy = false ∧ execHdrasm s = .next (s.latch .hdrasm .pure)) ∨
    (s.status.busy = true ∧ ¬(s.seq = .pure ∧ s.op = 0x04) ∧ execHdrasm s = .next s.dropCommand) ∨
    (s.status.busy = true ∧ s.seq = .pure ∧ s.op = 0x04 ∧
      execHdrasm s =
        .next ({ s with hdr := header s.argLen,
                        result := (lengthCrc s.argLen).setWidth 64 }.finish .ok)) := by
  rcases oneStep_cases .hdrasm hdrasmStep s with ⟨h, e⟩ | ⟨h, hs, ho, e⟩ | ⟨h, hn, e⟩
  · exact .inl ⟨h, e⟩
  · exact .inr (.inr ⟨h, hs, ho, e⟩)
  · exact .inr (.inl ⟨h, hn, e⟩)

theorem execReclen_cases (s : State) :
    (s.status.busy = false ∧ execReclen s = .next (s.latch .reclen .pure)) ∨
    (s.status.busy = true ∧ ¬(s.seq = .pure ∧ s.op = 0x05) ∧ execReclen s = .next s.dropCommand) ∨
    (s.status.busy = true ∧ s.seq = .pure ∧ s.op = 0x05 ∧
      execReclen s =
        .next ({ s with result := reclenResult s.argLen,
                        status := { s.status with carry := reclenCarry s.argLen } }.finish .ok)) := by
  rcases oneStep_cases .reclen reclenStep s with ⟨h, e⟩ | ⟨h, hs, ho, e⟩ | ⟨h, hn, e⟩
  · exact .inl ⟨h, e⟩
  · exact .inr (.inr ⟨h, hs, ho, e⟩)
  · exact .inr (.inl ⟨h, hn, e⟩)

/-- The steps of a DECODE in progress (rules R78 to R87), by the channel's answer and the place. -/
theorem execDecode_cases (s : State) :
    (s.status.busy = false ∧ execDecode s = .next (decodeIssue s)) ∨
    (s.status.busy = true ∧ s.seq ≠ .decHdr ∧ s.seq ≠ .decPay ∧ s.seq ≠ .decFtr ∧
      execDecode s = .next s.dropCommand) ∨
    (s.status.busy = true ∧ (s.seq = .decHdr ∨ s.seq = .decPay ∨ s.seq = .decFtr) ∧
      ((s.rx = [] ∧ execDecode s = .next s) ∨
       (∃ r, s.rx = .fail :: r ∧ execDecode s = .next ({ s with rx := r }.finish .ioFailure)) ∨
       (∃ r, s.rx = .eof :: r ∧
         ((s.seq = .decHdr ∧ execDecode s = .next (headerEof s)) ∨
          (s.seq = .decPay ∧ execDecode s = .next (s.finish .truncatedRecord)) ∨
          (s.seq = .decFtr ∧ execDecode s = .next (footerEof s)))) ∨
       (∃ b r, s.rx = .byte b :: r ∧
         ((s.seq = .decHdr ∧ execDecode s = headerByte { s with rx := r } b) ∨
          (s.seq = .decPay ∧ execDecode s = payloadByte { s with rx := r } b) ∨
          (s.seq = .decFtr ∧ execDecode s = footerByte { s with rx := r } b))))) := by
  cases hb : s.status.busy
  · exact .inl ⟨rfl, by simp [execDecode, hb]⟩
  · by_cases hs : s.seq = .decHdr ∨ s.seq = .decPay ∨ s.seq = .decFtr
    · refine .inr (.inr ⟨rfl, hs, ?_⟩)
      rcases hs with hs | hs | hs
      · have e : execDecode s = readingStep headerByte headerEof s := by simp [execDecode, hb, hs]
        rw [e]
        rcases readingStep_cases headerByte headerEof s with
          ⟨h, e⟩ | ⟨b, r, h, e⟩ | ⟨r, h, e⟩ | ⟨r, h, e⟩
        · exact .inl ⟨h, e⟩
        · exact .inr (.inr (.inr ⟨b, r, h, .inl ⟨hs, e⟩⟩))
        · exact .inr (.inr (.inl ⟨r, h, .inl ⟨hs, e⟩⟩))
        · exact .inr (.inl ⟨r, h, e⟩)
      · have e : execDecode s = readingStep payloadByte (fun t => t.finish .truncatedRecord) s := by
          simp [execDecode, hb, hs]
        rw [e]
        rcases readingStep_cases payloadByte (fun t => t.finish .truncatedRecord) s with
          ⟨h, e⟩ | ⟨b, r, h, e⟩ | ⟨r, h, e⟩ | ⟨r, h, e⟩
        · exact .inl ⟨h, e⟩
        · exact .inr (.inr (.inr ⟨b, r, h, .inr (.inl ⟨hs, e⟩)⟩))
        · exact .inr (.inr (.inl ⟨r, h, .inr (.inl ⟨hs, e⟩)⟩))
        · exact .inr (.inl ⟨r, h, e⟩)
      · have e : execDecode s = readingStep footerByte footerEof s := by simp [execDecode, hb, hs]
        rw [e]
        rcases readingStep_cases footerByte footerEof s with
          ⟨h, e⟩ | ⟨b, r, h, e⟩ | ⟨r, h, e⟩ | ⟨r, h, e⟩
        · exact .inl ⟨h, e⟩
        · exact .inr (.inr (.inr ⟨b, r, h, .inr (.inr ⟨hs, e⟩)⟩))
        · exact .inr (.inr (.inl ⟨r, h, .inr (.inr ⟨hs, e⟩)⟩))
        · exact .inr (.inl ⟨r, h, e⟩)
    · refine .inr (.inl ⟨rfl, fun h => hs (.inl h), fun h => hs (.inr (.inl h)),
        fun h => hs (.inr (.inr h)), ?_⟩)
      cases hq : s.seq <;> simp_all [execDecode]

/-- The start of an ENCODE (rule R92): refused, faulted or fixed. -/
theorem encodeStart_cases (s : State) :
    (s.pbufBytes < s.argLen.toNat ∧
      encodeStart s = .next ((startFrame s).finish .lengthUnsupported)) ∨
    (s.argLen.toNat ≤ s.pbufBytes ∧ ∃ i, s.mem.bytes 0 s.argLen.toNat = .error i ∧
      encodeStart s = .fault (.unwrittenRead i)) ∨
    (s.argLen.toNat ≤ s.pbufBytes ∧ ∃ p, s.mem.bytes 0 s.argLen.toNat = .ok p ∧
      encodeStart s = .next { startFrame s with
        hdr := header s.argLen, ftr := footer p, seq := .encHdr }) := by
  unfold encodeStart
  split
  · next hl => exact .inl ⟨hl, rfl⟩
  · next hl =>
    have hl := Nat.le_of_not_lt hl
    rw [State.payload]
    split
    · next i hi => exact .inr (.inl ⟨hl, i, hi, rfl⟩)
    · next p hp => exact .inr (.inr ⟨hl, p, hp, rfl⟩)

/-- Everything a step of ENCODE can answer, by its place (rules R92 to R96). -/
theorem execEncode_cases (s : State) :
    (s.status.busy = false ∧ execEncode s = .next (s.latch .encode .encStart)) ∨
    (s.status.busy = true ∧ s.seq ≠ .encStart ∧ s.seq ≠ .encHdr ∧ s.seq ≠ .encPay ∧
      s.seq ≠ .encFtr ∧ execEncode s = .next s.dropCommand) ∨
    (s.status.busy = true ∧
      ((s.seq = .encStart ∧ execEncode s = encodeStart s) ∨
       (s.seq = .encHdr ∧ execEncode s = encodeHeader s) ∨
       (s.seq = .encPay ∧ execEncode s = encodePayload s) ∨
       (s.seq = .encFtr ∧ execEncode s = encodeFooter s))) := by
  unfold execEncode
  cases hb : s.status.busy
  · simp
  · cases hs : s.seq <;> simp

end Sys2Proof.Machine
end

