-- ==== Sys2Proof/Laws/HostProgram.lean ====
section
/-! SUPPORT. What a turn of a host program does: polls, and turns that change nothing. -/

namespace Sys2Proof.Machine

@[simp] theorem runOps_nil (us : List Turn) (s : State) : runOps us s [] = .ended s := by
  cases us <;> rfl

@[simp] theorem runOps_no_turn (s : State) (op : HostOp) (ops : List HostOp) :
    runOps [] s (op :: ops) = .running s (op :: ops) := rfl

theorem runOps_turn {u : Turn} {us : List Turn} {s t : State} {op : HostOp} {ops left : List HostOp}
    (h : takeTurn u op ops s = .next (t, left)) :
    runOps (u :: us) s (op :: ops) = runOps us t left := by rw [runOps, h]

/-- A turn of another agent in a program is the step of the machine with that entry at its head. -/
theorem perform_eq_step (e : Event) (s : State) :
    perform e s = step { s with agenda := e :: s.agenda } := rfl

/-- A poll answers STATUS and changes nothing else (rules R37, R44, R62). -/
theorem perform_poll (s : State) :
    perform (.host HostOp.poll.asks) s = .next (s.respond (.value .b4 s.status.word)) := rfl

/-- The value a poll reads has BUSY at bit 0 (rule R16). -/
theorem status_word_bit_zero (f : Status) : f.word.getLsbD 0 = f.busy := by
  rw [Status.word, BitVec.getLsbD_append, if_pos Nat.one_pos]
  cases f.busy <;> rfl

/-- A poll ends its wait exactly where BUSY = 0. -/
theorem pollEnds_status (s : State) :
    pollEnds (s.respond (.value .b4 s.status.word)) = !s.status.busy := by
  rw [← status_word_bit_zero]; rfl

/-- Everything a poll's turn does. -/
theorem takeTurn_poll (s : State) (ops : List HostOp) :
    takeTurn .program .poll ops s =
      .next (s.respond (.value .b4 s.status.word),
        if s.status.busy then .poll :: ops else ops) := by
  rw [takeTurn, perform_poll]
  simp only [remaining, pollEnds_status]
  cases s.status.busy <;> rfl

end Sys2Proof.Machine
end

