-- ==== Sys2Proof/Laws/Invariant.lean ====
section
/-! SUPPORT. What the invariant does not depend on. -/

namespace Sys2Proof.Machine

/-- The invariant says nothing about the agenda, the channels or the bus's last answer. -/
theorem Inv.outside {s : State} (h : Inv s) (ag : List Event) (rx : List ReadAnswer)
    (tx : List WriteAnswer) (sent : List Byte) (resp : Option BusResponse) :
    Inv { s with agenda := ag, rx := rx, tx := tx, sent := sent, response := resp } :=
  ⟨h.busy_iff, h.busy_clear, h.rc_done, h.hdr_le, h.ftr_le, h.mem_wf, h.mem_within, h.pay_le,
    h.pay_frm, h.valid_ok, h.decode_ok, h.place⟩

end Sys2Proof.Machine
end

