-- ==== Sys2Proof/Laws/PerInstr.lean ====
section
/-! SUPPORT. Facts about each command as syntax, one lemma per constructor. -/

namespace Sys2Proof.Laws.CommandWord

/-- The command is well formed, its word is a legal command word (rule R57), and the word's four byte
lanes are its encoding (rule R36). -/
def Statement (i : Instr) : Prop :=
  i.wf = true ∧ Sys2Proof.CommandWord.wf (encodeWord i) = true ∧
  encode i = Machine.lanes 4 (encodeWord i)

theorem crc32c : Statement .crc32c := by unfold Statement; decide
theorem mask : Statement .mask := by unfold Statement; decide
theorem lenenc : Statement .lenenc := by unfold Statement; decide
theorem hdrasm : Statement .hdrasm := by unfold Statement; decide
theorem reclen : Statement .reclen := by unfold Statement; decide
theorem decode : Statement .decode := by unfold Statement; decide
theorem encode : Statement .encode := by unfold Statement; decide

end Sys2Proof.Laws.CommandWord
end

