-- ==== Sys2Proof/Tests/Slice0.lean ====
section
/-! SUPPORT. Smoke tests, one-step tests with the spec's own vectors, and a witness for each statement
that has hypotheses. -/

namespace Sys2Proof.Tests

open Sys2Proof Sys2Proof.Machine

/-! ## Well-formedness: each check refuses an ill-formed term -/

theorem test_wf_refuses_nonzero_rsvd :
    CommandWord.rsvdZero 0x106#32 = false ∧ CommandWord.wf 0x106#32 = false := by decide

theorem test_wf_refuses_unassigned_opcodes :
    CommandWord.opcAssigned 0x00#32 = false ∧ CommandWord.opcAssigned 0x08#32 = false ∧
    CommandWord.wf 0x00#32 = false ∧ CommandWord.wf 0xFF#32 = false := by decide

theorem test_wf_refuses_a_value_wider_than_its_access :
    Access.wf (.write 0x1000#32 .b1 0x100#32) = false ∧
    Access.wf (.write 0x1000#32 .b2 0x10000#32) = false ∧
    Access.wf (.write 0x1000#32 .b1 0xFF#32) = true := by decide

theorem test_wf_accepts_every_command : ∀ i ∈ [Instr.crc32c, .mask, .lenenc, .hdrasm, .reclen, .decode,
    .encode], i.wf = true := by decide

/-! ## Decoding: each command's word written out from the opcode map of rule R59 -/

theorem test_decode_crc32c : decode [0b00000001, 0, 0, 0] = .command .crc32c := by decide
theorem test_decode_mask : decode [0b00000010, 0, 0, 0] = .command .mask := by decide
theorem test_decode_lenenc : decode [0b00000011, 0, 0, 0] = .command .lenenc := by decide
theorem test_decode_hdrasm : decode [0b00000100, 0, 0, 0] = .command .hdrasm := by decide
theorem test_decode_reclen : decode [0b00000101, 0, 0, 0] = .command .reclen := by decide
theorem test_decode_decode : decode [0b00000110, 0, 0, 0] = .command .decode := by decide
theorem test_decode_encode : decode [0b00000111, 0, 0, 0] = .command .encode := by decide

/-- The illegal words of vectors BU1 to BU3, and byte sequences that are no command word. -/
theorem test_decode_rejects_by_name :
    decodeWord 0x00000008#32 = .illegal (.unassignedOpcode 0x08#8) ∧
    decodeWord 0x00000106#32 = .illegal .reservedFieldNotZero ∧
    decodeWord 0x00000000#32 = .illegal (.unassignedOpcode 0x00#8) ∧
    decode [0x07] = .illegal (.notFourBytes 1) ∧ decode [7, 0, 0, 0, 0] = .illegal (.notFourBytes 5) := by
  decide

/-! ## States the tests and witnesses share -/

/-- From reset, with a command in progress at `q`. -/
def inCommand (q : Seq) (op : Byte) : State :=
  { State.reset with status := { Status.reset with busy := true }, seq := q, op := op }

/-- From reset, with one agenda entry. -/
def facing (e : Event) : State := { State.reset with agenda := [e] }

/-- A busy machine (DECODE waiting for its first byte) with one agenda entry. -/
def busyFacing (e : Event) : State := { inCommand .decHdr 0x06 with agenda := [e] }

/-- "ab" in PBUF. -/
def abMem : Memory := [(0, 0x61), (1, 0x62)]

/-- "123456789" in PBUF (vector CC1). -/
def digitsMem : Memory :=
  [(0, 0x31), (1, 0x32), (2, 0x33), (3, 0x34), (4, 0x35), (5, 0x36), (6, 0x37), (7, 0x38), (8, 0x39)]

/-- The header of length 2 and the footer of "ab", as vector DE1 writes them. -/
def hdrTwo : Vector Byte 12 := #v[0x02, 0, 0, 0, 0, 0, 0, 0, 0x78, 0x27, 0x0B, 0x34]
def ftrAb : Vector Byte 4 := #v[0x1C, 0xB0, 0xF0, 0xF4]

/-- A DECODE of "ab" that has read the header, both payload bytes and `n` footer bytes. -/
def decFtrAb (n : BitVec 3) : State :=
  { inCommand .decFtr 0x06 with
    status := { (inCommand .decFtr 0x06).status with hdrCnt := 12, ftrCnt := n },
    frmLen := 2, payCnt := 2, hdr := hdrTwo, mem := abMem, acc := crcFold [0x61, 0x62],
    crcStored := 0x340B2778, crcComputed := 0x340B2778, ftr := #v[0x1C, 0xB0, 0xF0, 0] }

/-- A DECODE of "ab" that has read the header and `n` payload bytes. -/
def decPayAb (n : Nat) : State :=
  { decFtrAb 0 with seq := .decPay, payCnt := BitVec.ofNat 64 n, mem := abMem.take n,
                    acc := crcFold ([0x61, 0x62].take n) }

/-- An ENCODE of "ab" in state ENC_START. -/
def encStartAb : State := { inCommand .encStart 0x07 with argLen := 2, mem := abMem }

/-- An ENCODE of "ab" at `q`, its frame fixed and some of it committed. -/
def encAb (q : Seq) (h : BitVec 4) (p : Word64) (f : BitVec 3) : State :=
  { encStartAb with
    seq := q, frmLen := 2, payCnt := p, hdr := hdrTwo, ftr := ftrAb,
    status := { encStartAb.status with hdrCnt := h, ftrCnt := f } }

/-- What a step leaves, read by `f`. -/
def after {α : Type} (r : Result) (f : State → α) : Option α :=
  match r with
  | .next t => some (f t)
  | .fault _ => none
  | .refused _ => none

/-! ## One-step tests, expected values from 95_test_vectors.md -/

/-- Vector CC1. -/
theorem test_crc32c_of_the_check_string :
    after (step { inCommand .pure 0x01 with argLen := 9, mem := digitsMem })
      (fun t => (t.result, t.status.word)) = some (0x00000000E3069283#64, 0x00000002#32) := by
  decide +kernel

/-- Vectors CC3 and CC5. -/
theorem test_crc32c_of_a_length_above_pbuf_and_of_an_unwritten_byte :
    after (step { inCommand .pure 0x01 with argLen := 17, result := 5 })
      (fun t => (t.result, t.status.word)) = some (5#64, 0x00000602#32) ∧
    step { inCommand .pure 0x01 with argLen := 3, mem := abMem } = .fault (.unwrittenRead 2) :=
  ⟨by decide +kernel, rfl⟩

/-- Vector MK3: the sum wraps and CARRY stays 0. -/
theorem test_mask_wraps :
    after (step { inCommand .pure 0x02 with argCrc := 0xFFFFFFFF })
      (fun t => (t.result, t.status.word)) = some (0xA282EAD7#64, 0x00000002#32) := by decide +kernel

/-- Vector MK8. -/
theorem test_mask_of_the_check_value :
    after (step { inCommand .pure 0x02 with argCrc := 0xE3069283 }) (fun t => t.result)
      = some 0xC78AB0E5#64 := by decide +kernel

/-- Section 2.3: LENENC of 0x0000000100000002; HDR2 unchanged. -/
theorem test_lenenc_views :
    after (step { inCommand .pure 0x03 with argLen := 0x0000000100000002, hdr := hdrTwo })
      (fun t => (readReg t .hdr0, readReg t .hdr1, readReg t .hdr2, t.status.word))
      = some (0x00000002#32, 0x00000001#32, 0x340B2778#32, 0x00000002#32) := by decide +kernel

/-- Vector HD10. -/
theorem test_hdrasm_of_the_greatest_length :
    after (step { inCommand .pure 0x04 with argLen := 0xFFFFFFFFFFFFFFFF })
      (fun t => (t.hdr.toList, t.result)) =
    some ([0xFF, 0xFF, 0xFF, 0xFF, 0xFF, 0xFF, 0xFF, 0xFF, 0xA6, 0x7B, 0x11, 0x3A], 0x3A117BA6#64) := by
  decide +kernel

/-- Vector HD7: the byte order of the length. -/
theorem test_hdrasm_of_256 :
    after (step { inCommand .pure 0x04 with argLen := 256 }) (fun t => t.hdr.toList) =
    some [0x00, 0x01, 0, 0, 0, 0, 0, 0, 0x2F, 0xB3, 0x08, 0xDF] := by decide +kernel

/-- Vector RL5. -/
theorem test_reclen_carries :
    after (step { inCommand .pure 0x05 with argLen := 0xFFFFFFFFFFFFFFF0 })
      (fun t => (t.result, t.status.word)) = some (0#64, 0x00000012#32) := by decide +kernel

/-- Vector RL4. -/
theorem test_reclen_just_below_the_carry :
    after (step { inCommand .pure 0x05 with argLen := 0xFFFFFFFFFFFFFFEF })
      (fun t => (t.result, t.status.word)) = some (0xFFFFFFFFFFFFFFFF#64, 0x00000002#32) := by
  decide +kernel

/-- Vector DE13: the last footer byte with a bit flipped. -/
theorem test_decode_data_mismatch :
    after (step { decFtrAb 3 with rx := [.byte 0xF5] })
      (fun t => (t.status.word, t.crcStored, t.crcComputed))
      = some (0x0004C322#32, 0xF5F0B01C#32, 0xF4F0B01C#32) := by decide +kernel

/-- Vector DE5: a length that its checksum does not cover, in the step of the twelfth header byte. -/
theorem test_decode_length_mismatch :
    after (step { inCommand .decHdr 0x06 with
        status := { (inCommand .decHdr 0x06).status with hdrCnt := 11 },
        hdr := #v[0x03, 0, 0, 0, 0, 0, 0, 0, 0x78, 0x27, 0x0B, 0], rx := [.byte 0x34] })
      (fun t => (t.status.word, t.frmLen, t.crcStored, t.crcComputed))
      = some (0x0000C302#32, 3#64, 0x340B2778#32, 0x0E4999B0#32) := by decide +kernel

/-- Vector EN1: the step that fixes the frame of "ab". -/
theorem test_encode_fixes_the_frame :
    after (step encStartAb) (fun t => (t.hdr, t.ftr, t.seq)) = some (hdrTwo, ftrAb, .encHdr) := by
  decide +kernel

/-- Vector EN5: the second payload byte is refused. -/
theorem test_encode_write_failure :
    after (step { encAb .encPay 12 1 0 with tx := [.fail] })
      (fun t => (t.status.word, t.payCnt, t.sent)) = some (0x0000C502#32, 1#64, []) := by
  decide +kernel

/-- Vectors BU5 and BU6. -/
theorem test_bus_while_busy :
    after (step (busyFacing (.host (.write 0x000#32 .b4 1)))) (fun t => t.status.word)
      = some 0x00000009#32 ∧
    after (step (busyFacing (.host (.write 0x010#32 .b4 5)))) (fun t => (t.response, t.argLen))
      = some (some .busError, 0#64) ∧
    after (step (busyFacing (.host (.write 0x1000#32 .b1 5)))) (fun t => (t.response, t.mem))
      = some (some .busError, []) := by decide +kernel

/-- Program P1, line 10: little-endian lanes of PBUF. -/
theorem test_bus_pbuf_lanes :
    after (step { facing (.host (.read 0x1004#32 .b4)) with mem := digitsMem }) (fun t => t.response)
      = some (some (.value .b4 0x38373635#32)) := by decide +kernel

/-- Rule R62: `load` and `setlen` expand to byte writes and to two halves. -/
theorem test_host_lines_expand :
    expand (.load 1 [0x31, 0x32]) =
      [.access (.write 0x1001#32 .b1 0x31), .access (.write 0x1002#32 .b1 0x32)] ∧
    expand (.setlen 0x0000000100000002) =
      [.access (.write 0x010#32 .b4 2), .access (.write 0x014#32 .b4 1)] ∧
    expand (.command .encode) = [.access (.write 0x000#32 .b4 7)] := by decide

/-- Rules R62 and R120: behind a wait on a silent channel no line is done, however many turns the host
has; IE stays 0. -/
theorem test_wait_on_a_silent_channel_holds_the_program :
    (match runProgram [.program, .other .sequencer, .program, .program] (inCommand .decHdr 0x06)
        [.wait, .ienable] with
      | .running t todo => decide (t.ie = false ∧ todo = [.poll] ++ expand .ienable)
      | .ended _ | .fault _ | .refused _ => false) = true := by decide +kernel

/-! ## Witnesses: a state and operands that meet each statement's hypotheses -/

theorem witness_StepIssuesTheDecodedCommand :
    (facing (.host (.write 0x000#32 .b4 7))).agenda = [.host (.write 0x000#32 .b4 7)] ∧
    (facing (.host (.write 0x000#32 .b4 7))).status.busy = false ∧
    decodeWord 7#32 = .command .encode ∧ decodeTableWord 32 7 = some .encode := by decide +kernel

theorem witness_StepAdvancesTheCommandInProgress :
    (∀ i ∈ [Instr.crc32c, .mask, .lenenc, .hdrasm, .reclen], ∃ s : State,
      s.agenda = [.sequencer] ∧ s.status.busy = true ∧ s.seq = .pure ∧ s.op = opcode i) ∧
    (∀ q ∈ [Seq.decHdr, .decPay, .decFtr, .encStart, .encHdr, .encPay, .encFtr], ∃ s : State,
      s.agenda = [.sequencer] ∧ s.status.busy = true ∧ s.seq = q) :=
  ⟨fun i _ => ⟨{ inCommand .pure (opcode i) with agenda := [.sequencer] }, rfl, rfl, rfl, rfl⟩,
   fun q _ => ⟨{ inCommand q 0x06 with agenda := [.sequencer] }, rfl, rfl, rfl⟩⟩

theorem witness_ExecOfACommandNotInProgressIsDropped :
    (inCommand .decHdr 0x06).status.busy = true ∧ (inCommand .decHdr 0x06).seq ≠ .pure ∧
    (inCommand .pure 0x01).status.busy = true ∧ (inCommand .pure 0x01).op ≠ opcode .mask ∧
    (inCommand .pure 0x01).seq ≠ .decHdr ∧ (inCommand .pure 0x01).seq ≠ .encStart := by decide +kernel

theorem witness_IssueStartsTheCommand :
    ∀ w ∈ [1#32, 5#32, 6#32, 7#32],
      (facing (.host (.write 0x000#32 .b4 w))).agenda = [.host (.write 0x000#32 .b4 w)] ∧
      (facing (.host (.write 0x000#32 .b4 w))).status.busy = false ∧
      w.extractLsb' 8 24 = 0 ∧ 1 ≤ (w.extractLsb' 0 8).toNat ∧ (w.extractLsb' 0 8).toNat ≤ 7 := by
  intro w hw
  fin_cases hw <;> decide +kernel

theorem witness_IllegalWordEndsAtOnce :
    ∀ w ∈ [0x100#32, 0x106#32, 0#32, 8#32, 0xFF#32],
      (facing (.host (.write 0x000#32 .b4 w))).status.busy = false ∧
      (w.extractLsb' 8 24 ≠ 0 ∨ (w.extractLsb' 0 8).toNat = 0 ∨ 8 ≤ (w.extractLsb' 0 8).toNat) := by
  intro w hw
  fin_cases hw <;> decide +kernel

theorem witness_CmdWriteWhileBusyIsDropped :
    (busyFacing (.host (.write 0x000#32 .b4 1))).agenda = [.host (.write 0x000#32 .b4 1)] ∧
    (busyFacing (.host (.write 0x000#32 .b4 1))).status.busy = true := by decide +kernel

theorem witness_CommandEndsOnlyByFinishOrReset :
    (∃ s t : State, step s = .next t ∧ s.status.busy = true ∧ t.status.busy = false ∧
      t.status.done = true) ∧
    (∃ s t : State, step s = .next t ∧ s.status.busy = true ∧ t.status.busy = false ∧
      t.status.done = false) :=
  ⟨⟨{ inCommand .pure 0x02 with agenda := [.sequencer] }, _, rfl, rfl, rfl, rfl⟩,
   ⟨busyFacing .reset, _, rfl, rfl, rfl, rfl⟩⟩

theorem witness_FreeMachineTakesNoSequencerStep :
    ∃ s : State, s.status.busy = false ∧ s.agenda = List.replicate 3 .sequencer ++ [.reset] :=
  ⟨{ State.reset with agenda := [.sequencer, .sequencer, .sequencer, .reset] }, rfl, rfl⟩

/-- No bytes, and a payload. -/
theorem witness_Crc32cWritesTheChecksum :
    (∃ (s : State) (p : List Byte), s.status.busy = true ∧ s.seq = .pure ∧ s.op = 0x01 ∧ p = [] ∧
      p.length = s.argLen.toNat ∧ s.argLen.toNat ≤ s.pbufBytes ∧ s.holds p) ∧
    (∃ (s : State) (p : List Byte), s.status.busy = true ∧ s.seq = .pure ∧ s.op = 0x01 ∧ p.length = 9 ∧
      p.length = s.argLen.toNat ∧ s.argLen.toNat ≤ s.pbufBytes ∧ s.holds p) :=
  ⟨⟨inCommand .pure 0x01, [], by decide +kernel⟩,
   ⟨{ inCommand .pure 0x01 with argLen := 9, mem := digitsMem },
    [0x31, 0x32, 0x33, 0x34, 0x35, 0x36, 0x37, 0x38, 0x39], by decide +kernel⟩⟩

/-- One above PBUF_BYTES, and 2^32. -/
theorem witness_Crc32cRefusesALengthAbovePbuf :
    ∀ n ∈ [17#64, 0x100000000#64], ∃ s : State, s.argLen = n ∧ s.status.busy = true ∧ s.seq = .pure ∧
      s.op = 0x01 ∧ (s.pbufBytes < s.argLen.toNat ∨ 2 ^ 32 ≤ s.argLen.toNat) := by
  intro n hn
  refine ⟨{ inCommand .pure 0x01 with argLen := n }, rfl, rfl, rfl, rfl, ?_⟩
  fin_cases hn <;> decide +kernel

theorem witness_ReadingAnUnwrittenPayloadByteFaults :
    ∀ q ∈ [(Seq.pure, 0x01#8), (Seq.encStart, 0x07#8)], ∃ s : State, s.status.busy = true ∧
      s.argLen.toNat ≤ s.pbufBytes ∧ s.firstUnwritten 0 s.argLen.toNat 1 ∧ s.seq = q.1 ∧ s.op = q.2 := by
  intro q hq
  refine ⟨{ inCommand q.1 q.2 with argLen := 2, mem := [(0, 0x61)] }, rfl, ?_⟩
  fin_cases hq <;> decide +kernel

/-- MASK, LENENC, HDRASM and RECLEN at the edges of their operands. -/
theorem witness_MaskWritesTheMaskedValue : ∃ s : State, s.status.busy = true ∧ s.seq = .pure ∧
    s.op = 0x02 ∧ s.argCrc = 0xFFFFFFFF :=
  ⟨{ inCommand .pure 0x02 with argCrc := 0xFFFFFFFF }, by decide +kernel⟩

theorem witness_LenencWritesTheLengthBytes : ∃ s : State, s.status.busy = true ∧ s.seq = .pure ∧
    s.op = 0x03 ∧ s.argLen = 0xFFFFFFFFFFFFFFFF :=
  ⟨{ inCommand .pure 0x03 with argLen := 0xFFFFFFFFFFFFFFFF }, by decide +kernel⟩

theorem witness_HdrasmAssemblesTheHeader : ∃ s : State, s.status.busy = true ∧ s.seq = .pure ∧
    s.op = 0x04 ∧ s.pbufBytes < s.argLen.toNat :=
  ⟨{ inCommand .pure 0x04 with argLen := 0xFFFFFFFFFFFFFFFF }, by decide +kernel⟩

theorem witness_ReclenGivesTheExactRecordLength : ∃ s : State, s.status.busy = true ∧ s.seq = .pure ∧
    s.op = 0x05 ∧ 2 ^ 64 ≤ s.argLen.toNat + 16 :=
  ⟨{ inCommand .pure 0x05 with argLen := 0xFFFFFFFFFFFFFFF0 }, by decide +kernel⟩

theorem witness_OneChangedByteChangesTheChecksum : (0x61#8 : Byte) ≠ 0x62#8 := by decide +kernel

theorem witness_DecodeStoresAHeaderByte :
    ∀ k ∈ [0#4, 10#4], ∃ s : State, s.status.busy = true ∧ s.seq = .decHdr ∧ s.rx = [.byte 7] ∧
      s.status.hdrCnt = k ∧ k.toNat < 11 := by
  intro k hk
  refine ⟨{ inCommand .decHdr 0x06 with
    status := { (inCommand .decHdr 0x06).status with hdrCnt := k }, rx := [.byte 7] },
    rfl, rfl, rfl, rfl, ?_⟩
  fin_cases hk <;> decide +kernel

/-- One state for each way the header's checks end. -/
theorem witness_DecodeChecksTheHeader :
    ∀ c ∈ [(2#64, 0x340B2779#32), (17#64, 0x2EB56D9D#32), (0#64, 0x07980329#32),
        (16#64, 0x18FEFB95#32)],
      ∃ s : State, s.status.busy = true ∧ s.seq = .decHdr ∧
        s.rx = [.byte ((c.2 : Word).extractLsb' 24 8)] ∧ s.status.hdrCnt = 11 ∧
        (s.hdr.setIfInBounds 11 ((c.2 : Word).extractLsb' 24 8)).toList =
          lengthBytes c.1 ++ fieldBytes c.2 := by
  intro c hc
  refine ⟨{ inCommand .decHdr 0x06 with
    status := { (inCommand .decHdr 0x06).status with hdrCnt := 11 },
    hdr := joinHdr (le8 c.1) (le4 c.2), rx := [.byte ((c.2 : Word).extractLsb' 24 8)] },
    rfl, rfl, rfl, rfl, ?_⟩
  fin_cases hc <;> decide +kernel

/-- The four ways are the four: unequal, too long, empty, and a length that fits. -/
theorem witness_DecodeChecksTheHeader_covers_its_cases :
    mask (crc32c (lengthBytes 2)) ≠ 0x340B2779#32 ∧
    mask (crc32c (lengthBytes 17)) = 0x2EB56D9D#32 ∧ State.reset.pbufBytes < 17 ∧
    mask (crc32c (lengthBytes 0)) = 0x07980329#32 ∧
    mask (crc32c (lengthBytes 16)) = 0x18FEFB95#32 ∧ 16 ≤ State.reset.pbufBytes := by decide +kernel

theorem witness_DecodeStoresAPayloadByte :
    ∀ n ∈ [0, 1], ∃ s : State, s.status.busy = true ∧ s.seq = .decPay ∧ s.rx = [.byte 0x61] ∧
      s.payCnt.toNat = n ∧ s.payCnt.toNat < s.frmLen.toNat ∧ s.frmLen.toNat ≤ s.pbufBytes := by
  intro n hn
  refine ⟨{ decPayAb n with rx := [.byte 0x61] }, rfl, rfl, rfl, ?_⟩
  fin_cases hn <;> decide +kernel

theorem witness_DecodeStoresAFooterByte :
    ∀ n ∈ [0#3, 2#3], (decFtrAb n).status.busy = true ∧ (decFtrAb n).seq = .decFtr ∧
      { decFtrAb n with rx := [ReadAnswer.byte 0x1C] }.rx = [.byte 0x1C] ∧
      (decFtrAb n).status.ftrCnt.toNat < 3 := by
  intro n hn
  fin_cases hn <;> decide +kernel

/-- A stored checksum that is equal to the computed one, and one that is not. -/
theorem witness_DecodeChecksTheData :
    (decFtrAb 3).status.busy = true ∧ (decFtrAb 3).seq = .decFtr ∧ (decFtrAb 3).status.ftrCnt = 3 ∧
    ((decFtrAb 3).ftr.setIfInBounds 3 0xF4).toList = fieldBytes 0xF4F0B01C#32 ∧
    mask ((decFtrAb 3).acc ^^^ 0xFFFFFFFF#32) = 0xF4F0B01C#32 ∧
    ((decFtrAb 3).ftr.setIfInBounds 3 0xF5).toList = fieldBytes 0xF5F0B01C#32 ∧
    mask ((decFtrAb 3).acc ^^^ 0xFFFFFFFF#32) ≠ 0xF5F0B01C#32 := by decide +kernel

theorem witness_DecodeAtEndOfStreamEnds :
    (∃ s : State, s.status.busy = true ∧ s.rx = [.eof] ∧ s.seq = .decHdr ∧ s.status.hdrCnt = 0) ∧
    (∀ k ∈ [1#4, 11#4], ∃ s : State, s.status.busy = true ∧ s.rx = [.eof] ∧ s.seq = .decHdr ∧
      s.status.hdrCnt = k ∧ s.status.hdrCnt ≠ 0) ∧
    (∃ s : State, s.status.busy = true ∧ s.rx = [.eof] ∧ s.seq = .decPay) ∧
    (∃ s : State, s.status.busy = true ∧ s.rx = [.eof] ∧ s.seq = .decFtr ∧
      s.cfg.footerPolicy = .strict) := by
  refine ⟨⟨{ inCommand .decHdr 0x06 with rx := [.eof] }, by decide +kernel⟩, ?_,
    ⟨{ decPayAb 1 with rx := [.eof] }, by decide +kernel⟩, ⟨{ decFtrAb 3 with rx := [.eof] }, by decide +kernel⟩⟩
  intro k hk
  refine ⟨{ inCommand .decHdr 0x06 with
    status := { (inCommand .decHdr 0x06).status with hdrCnt := k }, rx := [.eof] },
    rfl, rfl, rfl, rfl, ?_⟩
  fin_cases hk <;> decide +kernel

/-- Vector DE21 (a stale byte that matches) and vector DE19 (zeros that do not). -/
theorem witness_SourceCompatChecksAShortFooterAsItStands :
    ∀ f ∈ [0xF4F0B01C#32, 0x0000B01C#32], ∃ s : State, s.status.busy = true ∧ s.seq = .decFtr ∧
      s.rx = [.eof] ∧ s.cfg.footerPolicy = .sourceCompat ∧ s.ftr.toList = fieldBytes f := by
  intro f hf
  refine ⟨{ decFtrAb 2 with rx := [.eof], ftr := le4 f,
                            cfg := { Config.default with footerPolicy := .sourceCompat } },
    rfl, rfl, rfl, rfl, ?_⟩
  fin_cases hf <;> decide +kernel

theorem witness_DecodeOnChannelFailureEnds :
    ∀ q ∈ [Seq.decHdr, .decPay, .decFtr], ∃ s : State, s.status.busy = true ∧ s.rx = [.fail] ∧
      s.seq = q :=
  fun q _ => ⟨{ inCommand q 0x06 with rx := [.fail] }, rfl, rfl, rfl⟩

theorem witness_EncodeFixesTheFrame :
    (inCommand .encStart 0x07).status.busy = true ∧ (inCommand .encStart 0x07).seq = .encStart ∧
    ([] : List Byte).length = (inCommand .encStart 0x07).argLen.toNat ∧
    (inCommand .encStart 0x07).holds [] ∧
    encStartAb.status.busy = true ∧ encStartAb.seq = .encStart ∧
    [0x61#8, 0x62#8].length = encStartAb.argLen.toNat ∧
    encStartAb.argLen.toNat ≤ encStartAb.pbufBytes ∧ encStartAb.holds [0x61#8, 0x62#8] := by decide +kernel

theorem witness_EncodeRefusesALengthAbovePbuf : ∃ s : State, s.status.busy = true ∧
    s.seq = .encStart ∧ s.pbufBytes < s.argLen.toNat :=
  ⟨{ inCommand .encStart 0x07 with argLen := 17 }, by decide +kernel⟩

/-- The eleventh byte, and the twelfth before a payload and before the footer of an empty one. -/
theorem witness_EncodeCommitsAHeaderByte :
    ∀ c ∈ [(10#4, 2#64, 0x0B#8), (11#4, 2#64, 0x34#8), (11#4, 0#64, 0x34#8)],
      ∃ s : State, s.status.busy = true ∧ s.seq = .encHdr ∧ s.tx = [.ok] ∧ s.frmLen = c.2.1 ∧
        s.status.hdrCnt = c.1 ∧ s.hdr[c.1.toNat]? = some c.2.2 := by
  intro c hc
  refine ⟨{ encAb .encHdr c.1 0 0 with tx := [.ok], frmLen := c.2.1 }, rfl, rfl, rfl, rfl, rfl, ?_⟩
  fin_cases hc <;> decide +kernel

theorem witness_EncodeCommitsAPayloadByte :
    ∀ c ∈ [(0#64, 0x61#8), (1#64, 0x62#8)],
      { encAb .encPay 12 c.1 0 with tx := [WriteAnswer.ok] }.tx = [.ok] ∧
      (encAb .encPay 12 c.1 0).status.busy = true ∧ (encAb .encPay 12 c.1 0).seq = .encPay ∧
      (encAb .encPay 12 c.1 0).payCnt.toNat < (encAb .encPay 12 c.1 0).frmLen.toNat ∧
      (encAb .encPay 12 c.1 0).frmLen.toNat ≤ (encAb .encPay 12 c.1 0).pbufBytes ∧
      (encAb .encPay 12 c.1 0).mem.read (encAb .encPay 12 c.1 0).payCnt.toNat = some c.2 := by
  intro c hc
  fin_cases hc <;> decide +kernel

theorem witness_EncodeCommitsAFooterByte :
    ∀ c ∈ [(2#3, 0xF0#8), (3#3, 0xF4#8)],
      { encAb .encFtr 12 2 c.1 with tx := [WriteAnswer.ok] }.tx = [.ok] ∧
      (encAb .encFtr 12 2 c.1).status.busy = true ∧ (encAb .encFtr 12 2 c.1).seq = .encFtr ∧
      (encAb .encFtr 12 2 c.1).ftr[(encAb .encFtr 12 2 c.1).status.ftrCnt.toNat]? = some c.2 := by
  intro c hc
  fin_cases hc <;> decide +kernel

theorem witness_EncodeOnChannelFailureEnds :
    { encAb .encHdr 11 0 0 with tx := [WriteAnswer.fail] }.tx = [.fail] ∧
    (encAb .encHdr 11 0 0).status.busy = true ∧
    (encAb .encHdr 11 0 0).seq = .encHdr ∧ (encAb .encHdr 11 0 0).status.hdrCnt.toNat < 12 ∧
    (encAb .encPay 12 1 0).seq = .encPay ∧
    (encAb .encPay 12 1 0).payCnt.toNat < (encAb .encPay 12 1 0).pbufBytes ∧
    (encAb .encPay 12 1 0).written (encAb .encPay 12 1 0).payCnt.toNat = true ∧
    (encAb .encFtr 12 2 3).seq = .encFtr ∧ (encAb .encFtr 12 2 3).status.ftrCnt.toNat < 4 := by decide +kernel

theorem witness_RegisterReadsReturnTheRegisterMap :
    ∀ off ∈ [0x000#32, 0x008#32, 0x048#32, 0x04C#32],
      (facing (.host (.read off .b4))).agenda = [.host (.read off .b4)] := by
  intro o ho
  fin_cases ho <;> decide +kernel

theorem witness_RegisterWritesFollowTheAccessColumn :
    ∀ off ∈ [0x004#32, 0x008#32, 0x010#32, 0x014#32, 0x018#32, 0x04C#32],
      (facing (.host (.write off .b4 3))).agenda = [.host (.write off .b4 3)] ∧
      (facing (.host (.write off .b4 3))).status.busy = false ∧
      (busyFacing (.host (.write off .b4 3))).agenda = [.host (.write off .b4 3)] ∧
      (busyFacing (.host (.write off .b4 3))).status.busy = true := by
  intro o ho
  fin_cases ho <;> decide +kernel

/-- At the edges of each way an access is illegal, with PBUF_BYTES = 16. -/
theorem witness_IllegalAccessGetsBusError :
    ∀ c ∈ [(0x000#32, BusSize.b1), (0x002#32, .b4), (0x00C#32, .b4), (0x01C#32, .b4), (0x050#32, .b4),
        (0xFFC#32, .b4), (0x1001#32, .b2), (0x1002#32, .b4), (0x1010#32, .b1), (0xFFFFFFFF#32, .b1)],
      (facing (.host (.read c.1 c.2))).agenda = [.host (.read c.1 c.2)] ∧
      (c.1.toNat < 0x1000 →
        (c.2 ≠ .b4 ∨ c.1.toNat % 4 ≠ 0 ∨ c.1 = 0x00C#32 ∨ c.1 = 0x01C#32 ∨ 0x050 ≤ c.1.toNat)) ∧
      (0x1000 ≤ c.1.toNat →
        (c.1.toNat % c.2.bytes ≠ 0 ∨
          0x1000 + State.reset.pbufBytes < c.1.toNat + c.2.bytes)) := by decide +kernel

/-- The first word and the last byte of the window, free and busy. -/
theorem witness_PbufWriteStoresItsByteLanes :
    ∀ c ∈ [(0x1000#32, BusSize.b4), (0x100E#32, .b2), (0x100F#32, .b1)],
      (facing (.host (.write c.1 c.2 9))).agenda = [.host (.write c.1 c.2 9)] ∧
      (facing (.host (.write c.1 c.2 9))).status.busy = false ∧
      (busyFacing (.host (.write c.1 c.2 9))).agenda = [.host (.write c.1 c.2 9)] ∧
      (busyFacing (.host (.write c.1 c.2 9))).status.busy = true ∧
      0x1000 ≤ c.1.toNat ∧ c.1.toNat % c.2.bytes = 0 ∧
      c.1.toNat + c.2.bytes ≤ 0x1000 + State.reset.pbufBytes := by decide +kernel

/-- Two written bytes read as a value, and two bytes of which the second was never written. -/
theorem witness_PbufReadIsLittleEndian :
    (∃ (s : State) (off v : Word) (size : BusSize), s.agenda = [.host (.read off size)] ∧
      0x1000 ≤ off.toNat ∧ off.toNat % size.bytes = 0 ∧
      off.toNat + size.bytes ≤ 0x1000 + s.pbufBytes ∧
      ∀ k < 4, if k < size.bytes then
          s.mem.read (off.toNat - 0x1000 + k) = some (v.extractLsb' (8 * k) 8)
        else v.extractLsb' (8 * k) 8 = 0) ∧
    (∃ (s : State) (off : Word) (size : BusSize), s.agenda = [.host (.read off size)] ∧
      0x1000 ≤ off.toNat ∧ off.toNat % size.bytes = 0 ∧
      off.toNat + size.bytes ≤ 0x1000 + s.pbufBytes ∧
      s.firstUnwritten (off.toNat - 0x1000) size.bytes 15) :=
  ⟨⟨{ facing (.host (.read 0x1000#32 .b2)) with mem := abMem }, 0x1000, 0x6261, .b2, by decide +kernel⟩,
   ⟨{ facing (.host (.read 0x100E#32 .b2)) with mem := [(14, 0x61)] }, 0x100E, .b2, by decide +kernel⟩⟩

theorem witness_NoReadHasASideEffect : ∃ s t : State,
    s.agenda = [.host (.read 0x004#32 .b4)] ∧ step s = .next t :=
  ⟨facing (.host (.read 0x004#32 .b4)), _, rfl, rfl⟩

theorem witness_HostCannotDisturbACommandInProgress :
    ∀ a ∈ [Access.write 0x000#32 .b4 1, .write 0x008#32 .b4 1, .write 0x010#32 .b4 1, .read 0x004#32 .b4],
      ∃ s t : State, s.agenda = [.host a] ∧ s.status.busy = true ∧ step s = .next t := by
  intro a ha
  have h : (after (step (busyFacing (.host a))) id).isSome = true := by revert a; decide +kernel
  cases e : step (busyFacing (.host a)) with
  | next t => exact ⟨_, t, rfl, rfl, e⟩
  | fault f => rw [e] at h; cases h
  | refused r => rw [e] at h; cases h

theorem witness_IrqIsDoneAndEnabled : ∃ s t : State,
    s.agenda = [.host (.write 0x008#32 .b4 0xFFFFFFFE)] ∧ s.irq = true ∧
    (0xFFFFFFFE#32).getLsbD 0 = false ∧ step s = .next t :=
  ⟨{ facing (.host (.write 0x008#32 .b4 0xFFFFFFFE)) with
     ie := true, status := { Status.reset with done := true } }, _, rfl, rfl, rfl, rfl⟩

theorem witness_ResetGivesEveryElementItsResetValue :
    (busyFacing .reset).agenda = [.reset] ∧ (busyFacing .reset).status.busy = true := by decide +kernel

/-! ### States of the invariant -/

/-- Waiting for the first header byte. -/
theorem inv_decHdr : Inv (inCommand .decHdr 0x06) :=
  { busy_iff := by decide, busy_clear := by decide, rc_done := by decide, hdr_le := by decide,
    ftr_le := by decide, mem_wf := by decide, mem_within := by decide, pay_le := by decide,
    pay_frm := by decide, valid_ok := by decide, decode_ok := by decide,
    place := ⟨rfl, by decide, rfl, rfl, rfl, rfl, rfl, rfl⟩ }

/-- Three footer bytes of "ab" read. -/
theorem inv_decFtrAb : Inv (decFtrAb 3) :=
  { busy_iff := by decide, busy_clear := by decide, rc_done := by decide, hdr_le := by decide,
    ftr_le := by decide, mem_wf := by decide, mem_within := by decide, pay_le := by decide,
    pay_frm := by decide, valid_ok := by decide, decode_ok := by decide,
    place := ⟨rfl, rfl, by decide, rfl, ⟨by decide +kernel, by decide⟩,
      ⟨[0x61, 0x62], rfl, by decide, by decide +kernel⟩⟩ }

/-- Committing the header of "ab". -/
theorem inv_encHdrAb : Inv (encAb .encHdr 0 0 0) :=
  { busy_iff := by decide, busy_clear := by decide, rc_done := by decide, hdr_le := by decide,
    ftr_le := by decide, mem_wf := by decide, mem_within := by decide, pay_le := by decide,
    pay_frm := by decide, valid_ok := by decide, decode_ok := by decide,
    place := ⟨rfl, by decide, rfl, rfl, ⟨rfl, by decide, by decide +kernel,
      ⟨[0x61, 0x62], rfl, by decide, by decide +kernel⟩⟩⟩ }

/-- CRC32C pending on an unwritten byte. -/
theorem inv_crc32c_unwritten : Inv { inCommand .pure 0x01 with argLen := 3, mem := abMem } :=
  { busy_iff := by decide, busy_clear := by decide, rc_done := by decide, hdr_le := by decide,
    ftr_le := by decide, mem_wf := by decide, mem_within := by decide, pay_le := by decide,
    pay_frm := by decide, valid_ok := by decide, decode_ok := by decide,
    place := ⟨by decide, by decide, rfl, rfl⟩ }

theorem witness_SilentChannelLeavesTheCommandWaiting :
    (∃ s : State, Inv s ∧ s.agenda = List.replicate 2 .sequencer ++ [] ∧ s.rx = [] ∧ s.seq = .decHdr) ∧
    (∃ s : State, Inv s ∧ s.agenda = List.replicate 2 .sequencer ++ [] ∧ s.tx = [] ∧ s.seq = .encHdr) :=
  ⟨⟨_, inv_decHdr.outside [.sequencer, .sequencer] [] [] [] none, rfl, rfl, rfl⟩,
   ⟨_, inv_encHdrAb.outside [.sequencer, .sequencer] [] [] [] none, rfl, rfl, rfl⟩⟩

theorem witness_InvariantKeptByEveryStep : ∃ s t : State, Inv s ∧ s.status.busy = true ∧
    step s = .next t ∧ t.status.hdrCnt = 1 :=
  ⟨_, _, inv_encHdrAb.outside [.sequencer] [] [.ok] [] none, rfl, rfl, rfl⟩

theorem witness_OnlyAnUnwrittenReadStopsTheMachine : ∃ s : State, Inv s ∧
    step s = .fault (.unwrittenRead 2) :=
  ⟨_, inv_crc32c_unwritten, rfl⟩

theorem witness_ValidOnlyAfterBothChecksComparedEqual : ∃ s t : State, Inv s ∧ step s = .next t ∧
    s.status.valid = false ∧ t.status.valid = true := by
  have h : (after (step { decFtrAb 3 with rx := [.byte 0xF4], agenda := [.sequencer] })
      (fun t => t.status.valid)) = some true := by decide +kernel
  cases e : step { decFtrAb 3 with rx := [.byte 0xF4], agenda := [.sequencer] } with
  | next t =>
    rw [e] at h
    exact ⟨_, t, inv_decFtrAb.outside [.sequencer] [.byte 0xF4] [] [] none, e, rfl, Option.some.inj h⟩
  | fault f => rw [e] at h; cases h
  | refused r => rw [e] at h; cases h

theorem witness_OperandRegistersAreWrittenOnlyByTheHost : ∃ s t : State, step s = .next t ∧
    t.argCrc ≠ s.argCrc :=
  ⟨facing (.host (.write 0x018#32 .b4 5)), _, rfl, by decide +kernel⟩

/-- By the host, and by DECODE. -/
theorem witness_PbufChangesOnlyByHostWriteOrDecode :
    (∃ s t : State, step s = .next t ∧ t.mem.read 0 ≠ s.mem.read 0 ∧ s.status.busy = false) ∧
    (∃ s t : State, step s = .next t ∧ t.mem.read 1 ≠ s.mem.read 1 ∧ s.status.busy = true) :=
  ⟨⟨facing (.host (.write 0x1000#32 .b1 5)), _, rfl, by decide +kernel, rfl⟩,
   ⟨{ decPayAb 1 with rx := [.byte 0x62] }, _, rfl, by decide +kernel, rfl⟩⟩

/-- A new input and a new output channel, a byte consumed, a byte committed. -/
theorem witness_ChannelsMoveOneByteAStepInOrder :
    (facing (.connectInput [.byte 1, .eof])).agenda = [.connectInput [.byte 1, .eof]] ∧
    (facing (.connectOutput [.ok, .fail])).agenda = [.connectOutput [.ok, .fail]] ∧
    (∃ s t : State, step s = .next t ∧ t.rx ≠ s.rx) ∧ (∃ s t : State, step s = .next t ∧
      t.sent ≠ s.sent) :=
  ⟨rfl, rfl, ⟨{ inCommand .decHdr 0x06 with rx := [.byte 1, .eof] }, _, rfl, by decide +kernel⟩,
   ⟨{ encAb .encHdr 0 0 0 with tx := [.ok] }, _, rfl, by decide +kernel⟩⟩

theorem witness_EncodeCommitsExactlyTheFrame :
    ∃ (s : State) (p : List Byte), p.length = 2 ∧ s.status.busy = false ∧ p.length = s.argLen.toNat ∧
      p.length ≤ s.pbufBytes ∧ s.holds p ∧ s.tx = List.replicate (recordLength p.length) .ok ++ [] ∧
      s.agenda = .host (.write 0x000#32 .b4 0x00000007#32) ::
        (List.replicate (1 + 12 + p.length + 4) .sequencer ++ []) :=
  ⟨{ State.reset with
     argLen := 2, mem := abMem, tx := List.replicate 18 .ok,
     agenda := .host (.write 0x000#32 .b4 7) :: List.replicate 19 .sequencer },
   [0x61, 0x62], by decide +kernel⟩

/-- A machine whose input channel holds `answers` and whose host issues a DECODE. -/
def decodeOf (answers : List ReadAnswer) (n : Nat) : State :=
  { State.reset with
    rx := answers,
    agenda := .host (.write 0x000#32 .b4 0x00000006#32) :: (List.replicate n .sequencer ++ []) }

theorem witness_DecodeOfAFrameRecoversThePayload :
    ∃ (s : State) (p : List Byte), p.length = 2 ∧ s.status.busy = false ∧ p.length ≤ s.pbufBytes ∧
      s.rx = (frame p).map .byte ++ [.eof] ∧
      s.agenda = .host (.write 0x000#32 .b4 0x00000006#32) ::
        (List.replicate (12 + p.length + 4) .sequencer ++ []) :=
  ⟨decodeOf ((frame [0x61, 0x62]).map .byte ++ [.eof]) 18, [0x61, 0x62], rfl, rfl, by decide +kernel, rfl, rfl⟩

/-- The first and the last header byte, the first payload byte and the last footer byte. -/
theorem witness_OneChangedByteOfAFrameIsDetected :
    ∀ c ∈ [(0, 0x03#8), (11, 0x35#8), (12, 0x62#8), (17, 0xF5#8)],
      (frame [0x61, 0x62])[c.1]? ≠ none ∧ (frame [0x61, 0x62])[c.1]? ≠ some c.2 ∧
      ∃ s : State, s.status.busy = false ∧ [0x61#8, 0x62#8].length ≤ s.pbufBytes ∧
        s.rx = ((frame [0x61, 0x62]).set c.1 c.2).map .byte ++ [.eof] ∧
        s.agenda = .host (.write 0x000#32 .b4 0x00000006#32) ::
          (List.replicate (12 + [0x61#8, 0x62#8].length + 4) .sequencer ++ []) := by
  intro c hc
  have h : ∀ c ∈ [(0, 0x03#8), (11, 0x35#8), (12, 0x62#8), (17, 0xF5#8)],
      (frame [0x61, 0x62])[c.1]? ≠ none ∧ (frame [0x61, 0x62])[c.1]? ≠ some c.2 := by decide +kernel
  exact ⟨(h c hc).1, (h c hc).2,
    decodeOf (((frame [0x61, 0x62]).set c.1 c.2).map .byte ++ [.eof]) 18, rfl, (by decide +kernel : 2 ≤ State.reset.pbufBytes), rfl, rfl⟩

theorem witness_DecodeEndsOnceTheStreamEnds :
    ∃ s : State, Inv s ∧ s.status.busy = true ∧ s.seq = .decHdr ∧
      s.rx = [0x61#8, 0x62#8].map .byte ++ [.eof] ∧
      s.agenda = List.replicate ([0x61#8, 0x62#8].length + 1) .sequencer ++ [] :=
  ⟨_, inv_decHdr.outside [.sequencer, .sequencer, .sequencer] [.byte 0x61, .byte 0x62, .eof] [] [] none,
    rfl, rfl, rfl, rfl⟩

/-- Two machines that differ in a register, a scratch buffer and PBUF. -/
theorem witness_StrictDecodeDependsOnlyOnTheStream :
    ∃ s s' : State, s.status.busy = false ∧ s'.status.busy = false ∧ s.cfg = s'.cfg ∧
      s.cfg.footerPolicy = .strict ∧ s.rx = s'.rx ∧
      s.agenda = .host (.write 0x000#32 .b4 0x00000006#32) :: List.replicate 14 .sequencer ∧
      s'.agenda = s.agenda ∧ s.mem ≠ s'.mem ∧ s.ftr ≠ s'.ftr ∧ s.result ≠ s'.result :=
  ⟨decodeOf [.byte 0x02, .eof] 14,
   { decodeOf [.byte 0x02, .eof] 14 with mem := abMem, ftr := ftrAb, result := 7 }, by decide +kernel⟩

/-- A wait that ends at once, and waits on a silent input and a silent output channel. -/
theorem witness_WaitEndsOnlyOnAPollThatReadsBusyClear :
    (∃ (us : List Turn) (s t : State), s.status.busy = false ∧
      runProgram us s [.wait] = .ended t) ∧
    (∃ (us : List Turn) (s : State), Inv s ∧ us.length = 2 ∧
      (∀ u ∈ us, u = .program ∨ u = .other .sequencer) ∧ s.rx = [] ∧ s.seq = .decHdr) ∧
    (∃ (us : List Turn) (s : State), Inv s ∧ us.length = 2 ∧
      (∀ u ∈ us, u = .program ∨ u = .other .sequencer) ∧ s.tx = [] ∧ s.seq = .encHdr) :=
  ⟨⟨[.program], State.reset, _, rfl, rfl⟩,
   ⟨[.program, .other .sequencer], _, inv_decHdr, rfl, by decide, rfl, rfl⟩,
   ⟨[.program, .other .sequencer], _, inv_encHdrAb, rfl, by decide, rfl, rfl⟩⟩

end Sys2Proof.Tests
end

/-! # Facts about the model's functions, and the statements they settle at once -/

namespace Sys2Proof.Machine

/-! ## One step, by the agenda's head (rules R13, R29) -/

theorem step_cons {s : State} {e : Event} {rest : List Event} (h : s.agenda = e :: rest) :
    step s = perform e { s with agenda := rest } := by
  simp only [step, h]

theorem sequencerTurn_of_free {s : State} (hb : s.status.busy = false) :
    sequencerTurn s = .next s := by
  simp [sequencerTurn, hb]

theorem sequencerTurn_of_inProgress {s : State} {i : Instr} (hb : s.status.busy = true)
    (hi : inProgress s = some i) : sequencerTurn s = exec i s := by
  simp only [sequencerTurn, hb, if_true, hi]

theorem sequencerTurn_decHdr {s : State} (hb : s.status.busy = true) (hq : s.seq = .decHdr) :
    sequencerTurn s = readingStep headerByte headerEof s := by
  rw [sequencerTurn_of_inProgress (i := .decode) hb (by simp only [inProgress, hq])]
  simp [exec, execDecode, hb, hq]

theorem sequencerTurn_decPay {s : State} (hb : s.status.busy = true) (hq : s.seq = .decPay) :
    sequencerTurn s = readingStep payloadByte (fun t => t.finish .truncatedRecord) s := by
  rw [sequencerTurn_of_inProgress (i := .decode) hb (by simp only [inProgress, hq])]
  simp [exec, execDecode, hb, hq]

theorem sequencerTurn_decFtr {s : State} (hb : s.status.busy = true) (hq : s.seq = .decFtr) :
    sequencerTurn s = readingStep footerByte footerEof s := by
  rw [sequencerTurn_of_inProgress (i := .decode) hb (by simp only [inProgress, hq])]
  simp [exec, execDecode, hb, hq]

theorem pureCommand_opcode {i : Instr} (hd : i ≠ .decode) (he : i ≠ .encode) :
    pureCommand (opcode i) = some i := by
  cases i
  case decode => exact absurd rfl hd
  case encode => exact absurd rfl he
  all_goals rfl

theorem pureCommand_isSome : ∀ op : Byte, 1 ≤ op.toNat → op.toNat ≤ 5 →
    (pureCommand op).isSome = true := by decide

/-- Settles O5: the command in progress, place by place. -/
theorem stepAdvancesTheCommandInProgress : Obligations.StepAdvancesTheCommandInProgress := by
  intro s rest hag hb
  have turn {i : Instr} (hi : inProgress { s with agenda := rest } = some i) :
      step s = exec i { s with agenda := rest } := by
    rw [step_cons hag]
    exact sequencerTurn_of_inProgress hb hi
  refine ⟨fun i hi hq ho => turn ?_, fun hq => turn ?_, fun hq => turn ?_⟩
  · simp only [inProgress, hq, ho]
    apply pureCommand_opcode <;> rintro rfl <;> simp at hi
  · rcases hq with hq | hq | hq <;> simp only [inProgress, hq]
  · rcases hq with hq | hq | hq | hq <;> simp only [inProgress, hq]

/-- The host's write of a word to CMD (rules R36, R101). -/
theorem step_cmdWrite {s : State} {w : Word} {rest : List Event}
    (h : s.agenda = .host (.write 0x000#32 .b4 w) :: rest) :
    step s = cmdWrite ({ s with agenda := rest }.respond .ok) w := by
  rw [step_cons h]
  rfl

theorem step_issueDecode {s : State} {rest : List Event}
    (h : s.agenda = .host (.write 0x000#32 .b4 0x00000006#32) :: rest)
    (hb : s.status.busy = false) :
    step s = .next (decodeIssue ({ s with agenda := rest }.respond .ok)) := by
  have hd : decodeWord 0x00000006#32 = .command .decode := by decide
  rw [step_cmdWrite h, cmdWrite, if_neg (by simp [hb]), hd]
  exact exec_issue .decode _ hb

/-! ## Reads of registers (rules R14, R28) -/

theorem readReg_ctrl (s : State) : readReg s .ctrl = if s.ie then 1#32 else 0#32 := by
  cases h : s.ie <;> simp [readReg, h]

theorem step_readReg {s : State} {r : Reg} {rest : List Event}
    (h : s.agenda = .host (.read (regOffset r) .b4) :: rest) :
    step s = .next { s with agenda := rest, response := some (.value .b4 (readReg s r)) } := by
  have hregion : inRegisterRegion (regOffset r) = true := by
    simpa [inRegisterRegion] using regOffset_lt r
  have haccess : regAccess (regOffset r) .b4 = some r := regAccess_eq_some.mpr ⟨rfl, rfl⟩
  rw [step_cons h]
  simp only [perform, hostAccess, hostRead, hregion, if_true, haccess]
  rfl

/-- Settles O38: the obligation's list is the register map, register by register. -/
theorem registerReadsReturnTheRegisterMap : Obligations.RegisterReadsReturnTheRegisterMap := by
  intro s rest off v hag hmem
  rw [← readReg_ctrl] at hmem
  have hmap : (off, v) ∈ allRegs.map (fun r => (regOffset r, readReg s r)) := hmem
  obtain ⟨r, -, hr⟩ := List.mem_map.mp hmap
  obtain ⟨rfl, rfl⟩ := Prod.mk.inj hr
  exact step_readReg hag

/-! ## PBUF on the host bus (rules R36, R40) -/

theorem lanes_length (n : Nat) (v : Word) : (lanes n v).length = n := by
  induction n generalizing v with
  | zero => rfl
  | succ n ih => simp [lanes, ih]

theorem pbufLegal_iff {s : State} {off : Word} {size : BusSize} : pbufLegal s off size = true ↔
    pbufBase ≤ off.toNat ∧ off.toNat % size.bytes = 0 ∧
      off.toNat + size.bytes ≤ pbufBase + s.pbufBytes := by
  simp [pbufLegal, and_assoc]

/-- A legal PBUF access lies in PBUF[0..PBUF_BYTES) (rule R40). -/
theorem pbufLegal_inside {s : State} {off : Word} {size : BusSize}
    (h : pbufLegal s off size = true) :
    off.toNat - pbufBase + size.bytes ≤ s.pbufBytes := by
  obtain ⟨hlow, -, hhigh⟩ := pbufLegal_iff.mp h
  omega

/-- A write reaches a register, is refused, or stores its bytes in PBUF while BUSY = 0 (rules R37 to
R42). -/
theorem hostWrite_cases (s : State) (off : Word) (size : BusSize) (v : Word) :
    (∃ r, size = .b4 ∧ off = regOffset r ∧ hostWrite s off size v = hostWriteReg s r v) ∨
    hostWrite s off size v = .next (s.respond .busError) ∨
    (s.status.busy = false ∧ pbufLegal s off size = true ∧
      hostWrite s off size v = .next (State.respond
        { s with mem := s.mem.writeBytes (off.toNat - pbufBase) (lanes size.bytes v) } .ok)) := by
  unfold hostWrite
  split
  · cases hr : regAccess off size with
    | none => exact .inr (.inl rfl)
    | some r =>
      obtain ⟨hsize, hoff⟩ := regAccess_eq_some.mp hr
      exact .inl ⟨r, hsize, hoff, rfl⟩
  · split
    · next hl =>
      obtain ⟨hlegal, hb⟩ : pbufLegal s off size = true ∧ s.status.busy = false := by simpa using hl
      exact .inr (.inr ⟨hb, hlegal, rfl⟩)
    · exact .inr (.inl rfl)

/-! ## Words and counters as numbers (rules R11, R16, R70) -/

theorem toNat_append_add {v w : Nat} (x : BitVec v) (y : BitVec w) :
    (x ++ y).toNat = x.toNat * 2 ^ w + y.toNat := by
  rw [BitVec.toNat_append, ← Nat.shiftLeft_add_eq_or_of_lt y.isLt, Nat.shiftLeft_eq]

/-- A counter below a limit of its own width does not wrap. -/
theorem toNat_add_one {w : Nat} {x n : BitVec w} (h : x.toNat < n.toNat) :
    (x + 1).toNat = x.toNat + 1 := by
  have hn := n.isLt
  have hone : (1 : BitVec w).toNat = 1 :=
    (BitVec.toNat_ofNat ..).trans (Nat.mod_eq_of_lt (show 1 < 2 ^ w by omega))
  rw [BitVec.toNat_add_of_lt (by omega), hone]

/-- A counter that did not reach its limit is still below it. -/
theorem toNat_add_one_lt {w : Nat} {x n : BitVec w} (h : x.toNat < n.toNat) (hne : x + 1 ≠ n) :
    (x + 1).toNat < n.toNat := by
  have hne' : (x + 1).toNat ≠ n.toNat := fun e => hne (BitVec.eq_of_toNat_eq e)
  have hinc := toNat_add_one h
  omega

theorem toNat_lt_of_zero {w : Nat} {x n : BitVec w} (hx : x = 0) (hn : n ≠ 0) :
    x.toNat < n.toNat := by
  rw [hx]
  exact BitVec.toNat_pos_of_ne_zero hn

/-- Settles O39: the word's parts, placed one after another. -/
theorem statusWordPlacesEveryField : Obligations.StatusWordPlacesEveryField := by
  intro f
  refine ⟨f.rc.code.toNat, ?_, ?_⟩
  · simp only [Status.word, toNat_append_add, BitVec.toNat_ofBool, BitVec.toNat_ofNat]
    omega
  · cases f.rc <;> decide

theorem le8_toList (l : Word64) : (le8 l).toList = lengthBytes l := rfl

theorem le4_toList (v : Word) : (le4 v).toList = fieldBytes v := rfl

theorem le8_rdle8 (v : Vector Byte 8) : le8 (rdle8 v) = v := by
  ext i hi : 1
  apply BitVec.eq_of_toNat_eq
  interval_cases i <;>
    simp only [le8, rdle8, Vector.getElem_mk, List.getElem_toArray, List.getElem_cons_zero,
      List.getElem_cons_succ, BitVec.extractLsb'_toNat, toNat_append_add,
      Nat.shiftRight_eq_div_pow] <;> omega

theorem le4_rdle4 (v : Vector Byte 4) : le4 (rdle4 v) = v := by
  ext i hi : 1
  apply BitVec.eq_of_toNat_eq
  interval_cases i <;>
    simp only [le4, rdle4, Vector.getElem_mk, List.getElem_toArray, List.getElem_cons_zero,
      List.getElem_cons_succ, BitVec.extractLsb'_toNat, toNat_append_add,
      Nat.shiftRight_eq_div_pow] <;> omega

theorem lengthBytes_rdle8 (v : Vector Byte 8) : lengthBytes (rdle8 v) = v.toList := by
  rw [← le8_toList, le8_rdle8]

theorem fieldBytes_rdle4 (v : Vector Byte 4) : fieldBytes (rdle4 v) = v.toList := by
  rw [← le4_toList, le4_rdle4]

theorem joinHdr_toList (e : Vector Byte 8) (f : Vector Byte 4) :
    (joinHdr e f).toList = e.toList ++ f.toList := by
  refine List.ext_getElem (by simp) fun i hi _ => ?_
  have hi12 : i < 12 := by simpa using hi
  interval_cases i <;> simp [joinHdr]

theorem joinHdr_hdrLen_hdrCrc (h : Vector Byte 12) : joinHdr (hdrLen h) (hdrCrc h) = h := by
  ext i hi : 1
  interval_cases i <;> rfl

/-! ## Reset (rules R33, R112) -/

theorem statusReset_word : Status.reset.word = 0 := by decide

/-- Settles O47: every field of `State.applyReset`. -/
theorem resetGivesEveryElementItsResetValue :
    Obligations.ResetGivesEveryElementItsResetValue := by
  intro s rest hag
  exact ⟨_, step_cons hag, statusReset_word, rfl, rfl, rfl, rfl, rfl, rfl, rfl, rfl,
    fun _ => Vector.getElem_replicate .., fun _ => Vector.getElem_replicate .., rfl, rfl, rfl, rfl,
    rfl, rfl, rfl, rfl, rfl, rfl⟩

/-! ## The read of a byte never written (rule R32) -/

theorem exec_crc32c_running {s : State} (hb : s.status.busy = true) (hq : s.seq = .pure)
    (ho : s.op = 0x01) : exec .crc32c s = crc32cStep s := by
  simp [exec, execCrc32c, oneStep, hb, hq, ho, opcode]

theorem exec_encode_start {s : State} (hb : s.status.busy = true) (hq : s.seq = .encStart) :
    exec .encode s = encodeStart s := by
  simp [exec, execEncode, hb, hq]

/-- Settles O14: both commands read the payload before any effect. -/
theorem readingAnUnwrittenPayloadByteFaults :
    Obligations.ReadingAnUnwrittenPayloadByteFaults := by
  intro s i hb hlen hfirst
  have hpayload : s.payload s.argLen = .error i := Memory.bytes_error_iff.mpr hfirst
  refine ⟨fun hq ho => ?_, fun hq => ?_⟩
  · rw [exec_crc32c_running hb hq ho, crc32cStep, if_neg (Nat.not_lt.mpr hlen), hpayload]
  · rw [exec_encode_start hb hq, encodeStart, if_neg (Nat.not_lt.mpr hlen), hpayload]

end Sys2Proof.Machine

/-! # The invariant (rules R16, R24, R29, R32, R88) -/

namespace Sys2Proof.Machine

/-! ## The invariant from its parts -/

/-- The part of the invariant that speaks of no outcome and no place: counters and PBUF in their
ranges (rules R16, R24, R26). -/
def InRange (s : State) : Prop :=
  s.status.hdrCnt.toNat ≤ 12 ∧ s.status.ftrCnt.toNat ≤ 4 ∧ s.mem.wf ∧ s.mem.within s.pbufBytes ∧
  s.payCnt.toNat ≤ s.pbufBytes ∧ s.payCnt.toNat ≤ s.frmLen.toNat

/-- STATUS of a command in progress: BUSY and no outcome (rules R16, R101). -/
def Status.Running (f : Status) : Prop :=
  f.busy = true ∧ f.done = false ∧ f.valid = false ∧ f.carry = false ∧ f.rc = .ok

section Invariant

variable {s : State}

theorem Inv.inRange (h : Inv s) : InRange s :=
  ⟨h.hdr_le, h.ftr_le, h.mem_wf, h.mem_within, h.pay_le, h.pay_frm⟩

theorem Inv.running (h : Inv s) (hb : s.status.busy = true) : s.status.Running :=
  ⟨hb, h.busy_clear hb⟩

theorem Inv.running_of_seq (h : Inv s) (hq : s.seq ≠ .idle) : s.status.Running :=
  h.running (h.busy_iff.mpr hq)

theorem Inv.idle_of_free (h : Inv s) (hb : s.status.busy = false) : s.seq = .idle := by
  by_contra hq
  exact absurd (h.busy_iff.mpr hq) (by simp [hb])

theorem Status.Running.valid {f : Status} (h : f.Running) : f.valid = false := by
  obtain ⟨-, -, hvalid, -⟩ := h
  exact hvalid

/-- A command in progress satisfies the invariant where its place does. -/
theorem inv_of_running (h : InRange s) (hr : s.status.Running) (hq : s.seq ≠ .idle)
    (hp : SeqInv s) : Inv s := by
  obtain ⟨hhdr, hftr, hwf, hin, hpay, hfrm⟩ := h
  obtain ⟨hbusy, hdone, hvalid, hcarry, hrc⟩ := hr
  exact ⟨iff_of_true hbusy hq, fun _ => ⟨hdone, hvalid, hcarry, hrc⟩, fun h => absurd hrc h, hhdr,
    hftr, hwf, hin, hpay, hfrm, by simp [hvalid], by simp [hdone], hp⟩

/-- A free machine satisfies the invariant where its outcome bits agree with one another. -/
theorem inv_of_free (h : InRange s) (hb : s.status.busy = false) (hq : s.seq = .idle)
    (hrc : s.status.rc ≠ .ok → s.status.done = true)
    (hvalid : s.status.valid = true → s.status.done = true ∧ s.status.rc = .ok ∧ s.op = 6 ∧
      s.status.crcsel = true ∧ s.crcStored = s.crcComputed ∧ s.payCnt = s.frmLen)
    (hdec : s.status.done = true → s.op = 6 → s.status.rc = .ok → s.status.valid = true) :
    Inv s := by
  obtain ⟨hhdr, hftr, hwf, hin, hpay, hfrm⟩ := h
  exact ⟨by simp [hb, hq], by simp [hb], hrc, hhdr, hftr, hwf, hin, hpay, hfrm, hvalid, hdec,
    by simp [SeqInv, hq]⟩

/-- Every end but a DECODE's with OK leaves VALID clear (rules R86, R104). -/
theorem inv_finish {rc : ResultCode} (h : InRange s) (hv : s.status.valid = false)
    (hok : s.op = 6 → rc ≠ .ok) : Inv (s.finish rc) :=
  inv_of_free (s := s.finish rc) h rfl rfl (fun _ => rfl) (by simp [hv])
    (fun _ ho hrc => absurd hrc (hok ho))

/-- A DECODE ends OK with VALID set, both values of the data checksum equal (rules R86, R88). -/
theorem inv_accept_finish (h : InRange s) (ho : s.op = 6) (hsel : s.status.crcsel = true)
    (heq : s.crcStored = s.crcComputed) (hpay : s.payCnt = s.frmLen) :
    Inv ((accept s).finish .ok) :=
  inv_of_free (s := (accept s).finish .ok) h rfl rfl (fun _ => rfl)
    (fun _ => ⟨rfl, rfl, ho, hsel, heq, hpay⟩) (fun _ _ _ => rfl)

/-! ## What a step may answer -/

/-- What the invariant allows a step from `s` to answer: a state of the invariant, or the read of a
byte of PBUF never written (rule R32). -/
def SoundFrom (s : State) : Result → Prop
  | .next t => Inv t
  | .fault (.unwrittenRead i) => i < s.pbufBytes ∧ s.mem.read i = none
  | .refused _ => False

@[simp] theorem soundFrom_next {t : State} : SoundFrom s (.next t) ↔ Inv t := Iff.rfl

theorem soundFrom_bytes_fault {a n i : Nat} (h : s.mem.bytes a n = .error i)
    (hn : a + n ≤ s.pbufBytes) : SoundFrom s (.fault (.unwrittenRead i)) := by
  obtain ⟨-, hi, hnone, -⟩ := Memory.bytes_error_iff.mp h
  exact ⟨hi.trans_le hn, hnone⟩

/-! ## Issue, illegal words, drops and reset -/

theorem Inv.dropCommand (h : Inv s) : Inv s.dropCommand :=
  ⟨h.busy_iff, h.busy_clear, h.rc_done, h.hdr_le, h.ftr_le, h.mem_wf, h.mem_within, h.pay_le,
    h.pay_frm, h.valid_ok, h.decode_ok, h.place⟩

theorem Inv.illegalCommand (h : Inv s) (hb : s.status.busy = false) : Inv s.illegalCommand :=
  inv_of_free ⟨by simp, by simp, h.mem_wf, h.mem_within, h.pay_le, h.pay_frm⟩ hb
    (h.idle_of_free hb) (fun _ => rfl) (by simp) (by simp)

/-- An issued command runs with both byte counters at 0 (rule R101). -/
theorem inv_latch {i : Instr} {q : Seq} (h : Inv s) (hq : q ≠ .idle) (hp : SeqInv (s.latch i q)) :
    Inv (s.latch i q) :=
  inv_of_running ⟨by simp, by simp, h.mem_wf, h.mem_within, h.pay_le, h.pay_frm⟩
    ⟨rfl, rfl, rfl, rfl, rfl⟩ hq hp

theorem Inv.decodeIssue (h : Inv s) : Inv (decodeIssue s) :=
  inv_of_running (s := Machine.decodeIssue s)
    ⟨Nat.zero_le 12, Nat.zero_le 4, h.mem_wf, h.mem_within, Nat.zero_le _, Nat.le_refl 0⟩
    ⟨rfl, rfl, rfl, rfl, rfl⟩ Seq.noConfusion ⟨rfl, Nat.succ_pos 11, rfl, rfl, rfl, rfl, rfl, rfl⟩

theorem inv_applyReset (hwf : s.mem.wf) (hin : s.mem.within s.pbufBytes) : Inv s.applyReset :=
  inv_of_free (s := s.applyReset)
    ⟨Nat.zero_le 12, Nat.zero_le 4, hwf, hin, Nat.zero_le _, Nat.le_refl 0⟩ rfl rfl
    (by simp [Status.reset]) (by simp [Status.reset]) (by simp [Status.reset])

/-! ## What the invariant says at each place -/

theorem seqInv_pure (hq : s.seq = .pure) : SeqInv s ↔
    1 ≤ s.op.toNat ∧ s.op.toNat ≤ 5 ∧ s.status.hdrCnt = 0 ∧ s.status.ftrCnt = 0 := by
  simp only [SeqInv, hq]

theorem seqInv_decHdr (hq : s.seq = .decHdr) : SeqInv s ↔
    s.op = 6 ∧ s.status.hdrCnt.toNat < 12 ∧ s.status.ftrCnt = 0 ∧ s.frmLen = 0 ∧
    s.payCnt = 0 ∧ s.crcStored = 0 ∧ s.crcComputed = 0 ∧ s.status.crcsel = false := by
  simp only [SeqInv, hq]

theorem seqInv_decPay (hq : s.seq = .decPay) : SeqInv s ↔
    s.op = 6 ∧ s.status.hdrCnt = 12 ∧ s.status.ftrCnt = 0 ∧
    s.payCnt.toNat < s.frmLen.toNat ∧ HeaderChecked s ∧ PayloadTracked s := by
  simp only [SeqInv, hq]

theorem seqInv_decFtr (hq : s.seq = .decFtr) : SeqInv s ↔
    s.op = 6 ∧ s.status.hdrCnt = 12 ∧ s.status.ftrCnt.toNat < 4 ∧
    s.payCnt = s.frmLen ∧ HeaderChecked s ∧ PayloadTracked s := by
  simp only [SeqInv, hq]

theorem seqInv_encStart (hq : s.seq = .encStart) : SeqInv s ↔
    s.op = 7 ∧ s.status.hdrCnt = 0 ∧ s.status.ftrCnt = 0 := by
  simp only [SeqInv, hq]

theorem seqInv_encHdr (hq : s.seq = .encHdr) : SeqInv s ↔
    s.op = 7 ∧ s.status.hdrCnt.toNat < 12 ∧ s.status.ftrCnt = 0 ∧ s.payCnt = 0 ∧
    FrameFixed s := by
  simp only [SeqInv, hq]

theorem seqInv_encPay (hq : s.seq = .encPay) : SeqInv s ↔
    s.op = 7 ∧ s.status.hdrCnt = 12 ∧ s.status.ftrCnt = 0 ∧
    s.payCnt.toNat < s.frmLen.toNat ∧ FrameFixed s := by
  simp only [SeqInv, hq]

theorem seqInv_encFtr (hq : s.seq = .encFtr) : SeqInv s ↔
    s.op = 7 ∧ s.status.hdrCnt = 12 ∧ s.status.ftrCnt.toNat < 4 ∧
    s.payCnt = s.frmLen ∧ FrameFixed s := by
  simp only [SeqInv, hq]

/-- A busy machine of the invariant has a command in progress (rule R29). -/
theorem Inv.inProgress_isSome (h : Inv s) (hb : s.status.busy = true) :
    (inProgress s).isSome = true := by
  cases hq : s.seq <;> simp only [inProgress, hq, Option.isSome_some]
  case idle => exact absurd hq (h.busy_iff.mp hb)
  case pure =>
    obtain ⟨hlow, hhigh, -, -⟩ := (seqInv_pure hq).mp h.place
    exact pureCommand_isSome s.op hlow hhigh

/-! ## The one-step commands keep the invariant -/

/-- A one-step command is sound where its effect is, run as a command other than DECODE. -/
theorem oneStep_sound {i : Instr} {effect : State → Result} (h : Inv s)
    (hlow : 1 ≤ (opcode i).toNat) (hhigh : (opcode i).toNat ≤ 5)
    (heff : s.status.Running → s.op ≠ 6 → SoundFrom s (effect s)) :
    SoundFrom s (oneStep i effect s) := by
  rcases oneStep_cases i effect s with ⟨-, e⟩ | ⟨hb, -, ho, e⟩ | ⟨-, -, e⟩ <;> rw [e]
  · exact inv_latch h (by simp) ⟨hlow, hhigh, rfl, rfl⟩
  · refine heff (h.running hb) fun h6 => ?_
    rw [← ho, h6] at hhigh
    exact absurd hhigh (by decide)
  · exact h.dropCommand

/-- A one-step command ends OK with nothing written but RESULT, HDR and CARRY (rules R68 to R74). -/
theorem inv_finish_results (h : Inv s) (hr : s.status.Running) (ho : s.op ≠ 6) (x : Word64)
    (d : Vector Byte 12) (c : Bool) :
    Inv (State.finish
      { s with result := x, hdr := d, status := { s.status with carry := c } } .ok) :=
  inv_finish (s := { s with result := x, hdr := d, status := { s.status with carry := c } })
    h.inRange hr.valid (absurd · ho)

theorem crc32cStep_sound (h : Inv s) (hr : s.status.Running) (ho : s.op ≠ 6) :
    SoundFrom s (crc32cStep s) := by
  unfold crc32cStep
  split
  · exact inv_finish h.inRange hr.valid (by simp)
  · next hlen =>
    cases hp : s.payload s.argLen with
    | error i => exact soundFrom_bytes_fault hp (by omega)
    | ok p => exact inv_finish_results h hr ho _ s.hdr s.status.carry

/-! ## DECODE keeps the invariant -/

/-- What the length check compared is a checked header (rules R78, R80). -/
theorem headerChecked_compareLength
    (heq : mask (crc32c (hdrLen s.hdr).toList) = rdle4 (hdrCrc s.hdr))
    (hcap : (compareLength s).frmLen.toNat ≤ s.pbufBytes) : HeaderChecked (compareLength s) := by
  refine ⟨?_, hcap⟩
  simp only [compareLength_hdr, compareLength_frmLen]
  rw [lengthBytes_rdle8, heq, fieldBytes_rdle4, ← joinHdr_toList, joinHdr_hdrLen_hdrCrc]

theorem inv_lengthCheck (h : InRange s) (hr : s.status.Running) (ho : s.op = 6)
    (hhdr : s.status.hdrCnt = 12) (hftr : s.status.ftrCnt = 0) (hpay : s.payCnt = 0) :
    Inv (lengthCheck s) := by
  have hin : InRange (compareLength s) := by
    obtain ⟨h1, h2, h3, h4, h5, -⟩ := h
    exact ⟨h1, h2, h3, h4, h5, by simp [hpay]⟩
  have htracked : PayloadTracked { compareLength s with acc := crcInit } :=
    ⟨[], by simp [hpay], fun i => i.elim0, rfl⟩
  rcases lengthCheck_cases s with ⟨-, e⟩ | ⟨heq, e⟩ <;> rw [e]
  · exact inv_finish hin hr.valid (by simp)
  · rcases capacityCheck_cases (compareLength s) with ⟨-, e⟩ | ⟨h0, e⟩ | ⟨h0, hcap, e⟩ <;> rw [e]
    · exact inv_finish hin hr.valid (by simp)
    · have hchk := headerChecked_compareLength heq (by rw [h0]; exact Nat.zero_le _)
      exact inv_of_running hin hr (by simp)
        ⟨ho, hhdr, by simp [hftr], hpay.trans h0.symm, hchk, htracked⟩
    · have hchk := headerChecked_compareLength heq hcap
      have hpos : s.payCnt.toNat < (compareLength s).frmLen.toNat := toNat_lt_of_zero hpay h0
      exact inv_of_running hin hr (by simp) ⟨ho, hhdr, hftr, hpos, hchk, htracked⟩

theorem headerByte_sound (h : Inv s) (hq : s.seq = .decHdr) (b : Byte) :
    SoundFrom s (headerByte s b) := by
  obtain ⟨ho, hcnt, hftr, hfrm, hpay, hst, hcp, hsel⟩ := (seqInv_decHdr hq).mp h.place
  have hr := h.running_of_seq (by simp [hq])
  have hle : (s.status.hdrCnt + 1).toNat ≤ 12 := (toNat_add_one (n := 12) hcnt).trans_le hcnt
  rw [headerByte, if_pos hcnt, soundFrom_next, headerStored]
  have hin : InRange
      (State.countHdr { s with hdr := s.hdr.setIfInBounds s.status.hdrCnt.toNat b }) :=
    ⟨hle, h.ftr_le, h.mem_wf, h.mem_within, h.pay_le, h.pay_frm⟩
  split
  · next h12 => exact inv_lengthCheck hin hr ho h12 hftr hpay
  · next h12 =>
    have hlt : (s.status.hdrCnt + 1).toNat < 12 := toNat_add_one_lt (n := 12) hcnt h12
    exact inv_of_running hin hr (by simp [hq])
      ((seqInv_decHdr (by exact hq)).mpr ⟨ho, hlt, hftr, hfrm, hpay, hst, hcp, hsel⟩)

/-- One more payload byte, at the index PAY_CNT, is tracked in PBUF and in ACC (rules R82, R65). -/
theorem payloadTracked_step (h : PayloadTracked s) (b : Byte)
    (hinc : (s.payCnt + 1).toNat = s.payCnt.toNat + 1) :
    PayloadTracked
      (State.countPay { s with mem := s.mem.write s.payCnt.toNat b, acc := crcStep s.acc b }) := by
  obtain ⟨p, hlen, hholds, hacc⟩ := h
  refine ⟨p ++ [b], by simpa [hlen] using hinc.symm, fun ⟨i, hi⟩ => ?_, by simp [hacc]⟩
  simp only [List.length_append, List.length_singleton] at hi
  simp only [countPay_mem, Memory.read_write, Fin.getElem_fin]
  split
  · next e =>
    subst e
    simp [← hlen]
  · next hne =>
    have hi' : i < p.length := by omega
    rw [List.getElem_append_left hi']
    exact hholds ⟨i, hi'⟩

theorem payloadByte_sound (h : Inv s) (hq : s.seq = .decPay) (b : Byte) :
    SoundFrom s (payloadByte s b) := by
  obtain ⟨ho, hhdr, hftr, hlt, hchk, htracked⟩ := (seqInv_decPay hq).mp h.place
  have hr := h.running_of_seq (by simp [hq])
  have hcap : s.payCnt.toNat < s.pbufBytes := hlt.trans_le hchk.2
  have hinc := toNat_add_one hlt
  rw [payloadByte, if_pos hcap, soundFrom_next, payloadStored]
  have htracked' := payloadTracked_step htracked b hinc
  have hin : InRange
      (State.countPay { s with mem := s.mem.write s.payCnt.toNat b, acc := crcStep s.acc b }) :=
    ⟨h.hdr_le, h.ftr_le, Memory.wf_write _ _ h.mem_wf, Memory.within_write b h.mem_within hcap,
      hinc.trans_le hcap, hinc.trans_le hlt⟩
  split
  · next heq =>
    exact inv_of_running hin hr (by simp) ⟨ho, hhdr, by simp [hftr], heq, hchk, htracked'⟩
  · next hne =>
    have hlt' : (s.payCnt + 1).toNat < s.frmLen.toNat := toNat_add_one_lt hlt hne
    exact inv_of_running hin hr (by simp [hq])
      ((seqInv_decPay (by exact hq)).mpr ⟨ho, hhdr, hftr, hlt', hchk, htracked'⟩)

theorem inv_dataCheck (h : InRange s) (hr : s.status.Running) (ho : s.op = 6)
    (hpay : s.payCnt = s.frmLen) : Inv (dataCheck s) := by
  rcases dataCheck_cases s with ⟨-, e⟩ | ⟨heq, e⟩ <;> rw [e]
  · exact inv_finish (s := compareData s) h hr.valid (by simp)
  · exact inv_accept_finish (s := compareData s) h ho rfl heq.symm hpay

theorem footerByte_sound (h : Inv s) (hq : s.seq = .decFtr) (b : Byte) :
    SoundFrom s (footerByte s b) := by
  obtain ⟨ho, hhdr, hcnt, hpay, hchk, htracked⟩ := (seqInv_decFtr hq).mp h.place
  have hr := h.running_of_seq (by simp [hq])
  have hle : (s.status.ftrCnt + 1).toNat ≤ 4 := (toNat_add_one (n := 4) hcnt).trans_le hcnt
  rw [footerByte, if_pos hcnt, soundFrom_next, footerStored]
  have hin : InRange
      (State.countFtr { s with ftr := s.ftr.setIfInBounds s.status.ftrCnt.toNat b }) :=
    ⟨h.hdr_le, hle, h.mem_wf, h.mem_within, h.pay_le, h.pay_frm⟩
  split
  · exact inv_dataCheck hin hr ho hpay
  · next h4 =>
    have hlt : (s.status.ftrCnt + 1).toNat < 4 := toNat_add_one_lt (n := 4) hcnt h4
    exact inv_of_running hin hr (by simp [hq])
      ((seqInv_decFtr (by exact hq)).mpr ⟨ho, hhdr, hlt, hpay, hchk, htracked⟩)

/-- End-of-stream in the header never ends with OK (rule R79). -/
theorem inv_headerEof (h : Inv s) (hq : s.seq = .decHdr) : Inv (headerEof s) := by
  refine inv_finish h.inRange (h.running_of_seq (by simp [hq])).valid fun _ => ?_
  split <;> simp

theorem inv_footerEof (h : Inv s) (hq : s.seq = .decFtr) : Inv (footerEof s) := by
  obtain ⟨ho, -, -, hpay, -, -⟩ := (seqInv_decFtr hq).mp h.place
  have hr := h.running_of_seq (by simp [hq])
  unfold footerEof
  split
  · exact inv_finish h.inRange hr.valid (by simp)
  · exact inv_dataCheck h.inRange hr ho hpay

/-- A reading step is sound where its byte and its end-of-stream are. -/
theorem readingStep_sound {onByte : State → Byte → Result} {onEof : State → State} {q : Seq}
    (h : Inv s) (hq : s.seq = q) (hne : q ≠ .idle)
    (hbyte : ∀ t, Inv t → t.seq = q → ∀ b, SoundFrom t (onByte t b))
    (heof : Inv (onEof s)) : SoundFrom s (readingStep onByte onEof s) := by
  rcases readingStep_cases onByte onEof s with
    ⟨-, e⟩ | ⟨b, r, -, e⟩ | ⟨r, -, e⟩ | ⟨r, -, e⟩ <;> rw [e]
  · exact h
  · exact hbyte _ (h.outside s.agenda r s.tx s.sent s.response) hq b
  · exact heof
  · have hr := h.running_of_seq (hq ▸ hne)
    exact inv_finish (s := { s with rx := r }) h.inRange hr.valid (by simp)

theorem execDecode_sound (h : Inv s) : SoundFrom s (execDecode s) := by
  unfold execDecode
  split
  · exact h.decodeIssue
  · cases hq : s.seq
    case decHdr =>
      exact readingStep_sound h hq (by simp) (fun _ ht => headerByte_sound ht) (inv_headerEof h hq)
    case decPay =>
      exact readingStep_sound h hq (by simp) (fun _ ht => payloadByte_sound ht)
        (inv_finish h.inRange (h.running_of_seq (by simp [hq])).valid (by simp))
    case decFtr =>
      exact readingStep_sound h hq (by simp) (fun _ ht => footerByte_sound ht) (inv_footerEof h hq)
    all_goals exact h.dropCommand

/-! ## ENCODE keeps the invariant -/

/-- What ENC_START fixes, of a payload in PBUF (rule R92). -/
theorem frameFixed_start {p : List Byte} (hlen : s.argLen.toNat ≤ s.pbufBytes)
    (hp : s.mem.bytes 0 s.argLen.toNat = .ok p) :
    FrameFixed { startFrame s with hdr := header s.argLen, ftr := footer p, seq := .encHdr } := by
  obtain ⟨hplen, hread⟩ := Memory.bytes_ok_iff.mp hp
  refine ⟨rfl, hlen, joinHdr_toList _ _, p, hplen, fun i => ?_, rfl⟩
  simpa using hread i.val i.isLt

theorem encodeStart_sound (h : Inv s) (hq : s.seq = .encStart) : SoundFrom s (encodeStart s) := by
  obtain ⟨ho, hhdr, hftr⟩ := (seqInv_encStart hq).mp h.place
  have hr := h.running_of_seq (by simp [hq])
  have hin : InRange (startFrame s) :=
    ⟨h.hdr_le, h.ftr_le, h.mem_wf, h.mem_within, Nat.zero_le _, Nat.zero_le _⟩
  rcases encodeStart_cases s with ⟨-, e⟩ | ⟨hlen, i, hi, e⟩ | ⟨hlen, p, hp, e⟩ <;> rw [e]
  · exact inv_finish hin hr.valid (by simp)
  · exact soundFrom_bytes_fault hi (by omega)
  · exact inv_of_running hin hr (by simp)
      ⟨ho, by simp [hhdr], hftr, rfl, frameFixed_start hlen hp⟩

/-- A writing step is sound where its committed byte is. -/
theorem writingStep_sound {b : Byte} {onOk : State → State} {q : Seq} (h : Inv s)
    (hq : s.seq = q) (hne : q ≠ .idle) (hok : ∀ t, Inv t → t.seq = q → Inv (onOk t)) :
    SoundFrom s (writingStep b onOk s) := by
  rcases writingStep_cases b onOk s with ⟨-, e⟩ | ⟨r, -, e⟩ | ⟨r, -, e⟩ <;> rw [e]
  · exact h
  · exact hok _ (h.outside s.agenda s.rx r (s.sent ++ [b]) s.response) hq
  · have hr := h.running_of_seq (hq ▸ hne)
    exact inv_finish (s := { s with tx := r }) h.inRange hr.valid (by simp)

theorem inv_headerSent (h : Inv s) (hq : s.seq = .encHdr) : Inv (headerSent s.countHdr) := by
  obtain ⟨ho, hcnt, hftr, hpay, hfix⟩ := (seqInv_encHdr hq).mp h.place
  have hr := h.running_of_seq (by simp [hq])
  have hle : (s.status.hdrCnt + 1).toNat ≤ 12 := (toNat_add_one (n := 12) hcnt).trans_le hcnt
  have hin : InRange s.countHdr :=
    ⟨hle, h.ftr_le, h.mem_wf, h.mem_within, h.pay_le, h.pay_frm⟩
  rw [headerSent]
  split
  · next h12 =>
    by_cases h0 : s.frmLen = 0
    · rw [countHdr_frmLen, if_pos h0]
      exact inv_of_running hin hr (by simp) ⟨ho, h12, by simp [hftr], hpay.trans h0.symm, hfix⟩
    · rw [countHdr_frmLen, if_neg h0]
      exact inv_of_running hin hr (by simp) ⟨ho, h12, hftr, toNat_lt_of_zero hpay h0, hfix⟩
  · next h12 =>
    have hlt : (s.status.hdrCnt + 1).toNat < 12 := toNat_add_one_lt (n := 12) hcnt h12
    exact inv_of_running hin hr (by simp [hq])
      ((seqInv_encHdr (by exact hq)).mpr ⟨ho, hlt, hftr, hpay, hfix⟩)

theorem inv_payloadSent (h : Inv s) (hq : s.seq = .encPay) : Inv (payloadSent s.countPay) := by
  obtain ⟨ho, hhdr, hftr, hlt, hfix⟩ := (seqInv_encPay hq).mp h.place
  have hr := h.running_of_seq (by simp [hq])
  have hinc := toNat_add_one hlt
  have hcap : s.frmLen.toNat ≤ s.pbufBytes := by
    obtain ⟨-, hcap, -⟩ := hfix
    exact hcap
  have hin : InRange s.countPay :=
    ⟨h.hdr_le, h.ftr_le, h.mem_wf, h.mem_within, hinc.trans_le (hlt.trans_le hcap),
      hinc.trans_le hlt⟩
  rw [payloadSent]
  split
  · next heq => exact inv_of_running hin hr (by simp) ⟨ho, hhdr, by simp [hftr], heq, hfix⟩
  · next hne =>
    have hlt' : (s.payCnt + 1).toNat < s.frmLen.toNat := toNat_add_one_lt hlt hne
    exact inv_of_running hin hr (by simp [hq])
      ((seqInv_encPay (by exact hq)).mpr ⟨ho, hhdr, hftr, hlt', hfix⟩)

theorem inv_footerSent (h : Inv s) (hq : s.seq = .encFtr) : Inv (footerSent s.countFtr) := by
  obtain ⟨ho, hhdr, hcnt, hpay, hfix⟩ := (seqInv_encFtr hq).mp h.place
  have hr := h.running_of_seq (by simp [hq])
  have hle : (s.status.ftrCnt + 1).toNat ≤ 4 := (toNat_add_one (n := 4) hcnt).trans_le hcnt
  have hin : InRange s.countFtr :=
    ⟨h.hdr_le, hle, h.mem_wf, h.mem_within, h.pay_le, h.pay_frm⟩
  rw [footerSent]
  split
  · exact inv_finish hin hr.valid (by simp [ho])
  · next h4 =>
    have hlt : (s.status.ftrCnt + 1).toNat < 4 := toNat_add_one_lt (n := 4) hcnt h4
    exact inv_of_running hin hr (by simp [hq])
      ((seqInv_encFtr (by exact hq)).mpr ⟨ho, hhdr, hlt, hpay, hfix⟩)

theorem encodeHeader_sound (h : Inv s) (hq : s.seq = .encHdr) : SoundFrom s (encodeHeader s) := by
  obtain ⟨-, hcnt, -⟩ := (seqInv_encHdr hq).mp h.place
  simp only [encodeHeader, Vector.getElem?_eq_getElem hcnt]
  exact writingStep_sound h hq (by simp) fun _ ht => inv_headerSent ht

theorem encodePayload_sound (h : Inv s) (hq : s.seq = .encPay) : SoundFrom s (encodePayload s) := by
  obtain ⟨-, -, -, hlt, -, hcap, -, p, hplen, hholds, -⟩ := (seqInv_encPay hq).mp h.place
  have hread := hholds ⟨s.payCnt.toNat, hplen ▸ hlt⟩
  simp only at hread
  simp only [encodePayload, if_pos (hlt.trans_le hcap), hread]
  exact writingStep_sound h hq (by simp) fun _ ht => inv_payloadSent ht

theorem encodeFooter_sound (h : Inv s) (hq : s.seq = .encFtr) : SoundFrom s (encodeFooter s) := by
  obtain ⟨-, -, hcnt, -⟩ := (seqInv_encFtr hq).mp h.place
  simp only [encodeFooter, Vector.getElem?_eq_getElem hcnt]
  exact writingStep_sound h hq (by simp) fun _ ht => inv_footerSent ht

theorem execEncode_sound (h : Inv s) : SoundFrom s (execEncode s) := by
  rcases execEncode_cases s with ⟨-, e⟩ | ⟨-, -, -, -, -, e⟩ |
    ⟨-, ⟨hq, e⟩ | ⟨hq, e⟩ | ⟨hq, e⟩ | ⟨hq, e⟩⟩ <;> rw [e]
  · exact inv_latch h Seq.noConfusion ⟨rfl, rfl, rfl⟩
  · exact h.dropCommand
  · exact encodeStart_sound h hq
  · exact encodeHeader_sound h hq
  · exact encodePayload_sound h hq
  · exact encodeFooter_sound h hq

/-! ## Every step keeps the invariant -/

/-- The next step of any command, its issue and a dropped write included. -/
theorem exec_sound (h : Inv s) (i : Instr) : SoundFrom s (exec i s) := by
  cases i
  case crc32c => exact oneStep_sound h (by decide) (by decide) (crc32cStep_sound h)
  case mask =>
    exact oneStep_sound h (by decide) (by decide) fun hr ho =>
      inv_finish_results h hr ho _ s.hdr s.status.carry
  case lenenc =>
    exact oneStep_sound h (by decide) (by decide) fun hr ho =>
      inv_finish_results h hr ho s.result _ s.status.carry
  case hdrasm =>
    exact oneStep_sound h (by decide) (by decide) fun hr ho =>
      inv_finish_results h hr ho _ _ s.status.carry
  case reclen =>
    exact oneStep_sound h (by decide) (by decide) fun hr ho =>
      inv_finish_results h hr ho _ s.hdr _
  case decode => exact execDecode_sound h
  case encode => exact execEncode_sound h

theorem cmdWrite_sound (h : Inv s) (w : Word) : SoundFrom s (cmdWrite s w) := by
  rcases cmdWrite_cases s w with ⟨-, e⟩ | ⟨-, i, -, e⟩ | ⟨hb, _, -, e⟩ <;> rw [e]
  · exact h.dropCommand
  · exact exec_sound h i
  · exact h.illegalCommand hb

theorem Inv.respond (h : Inv s) (a : BusResponse) : Inv (s.respond a) :=
  h.outside s.agenda s.rx s.tx s.sent (some a)

/-- While BUSY = 0 the operands and PBUF are the host's to write (rules R19, R42). -/
theorem inv_hostStores (h : Inv s) (hb : s.status.busy = false) {l : Word64} {c : Word} {m : Memory}
    (hwf : m.wf) (hin : m.within s.pbufBytes) :
    Inv { s with argLen := l, argCrc := c, mem := m } :=
  inv_of_free ⟨h.hdr_le, h.ftr_le, hwf, hin, h.pay_le, h.pay_frm⟩ hb (h.idle_of_free hb)
    h.rc_done h.valid_ok h.decode_ok

/-- CTRL.IE takes no part in the invariant (rule R18). -/
theorem Inv.setIe (h : Inv s) (b : Bool) : Inv { s with ie := b } :=
  ⟨h.busy_iff, h.busy_clear, h.rc_done, h.hdr_le, h.ftr_le, h.mem_wf, h.mem_within, h.pay_le,
    h.pay_frm, h.valid_ok, h.decode_ok, h.place⟩

theorem hostWriteReg_sound (h : Inv s) (r : Reg) (v : Word) : SoundFrom s (hostWriteReg s r v) := by
  rcases hostWriteReg_cases s r v with
    ⟨-, e⟩ | ⟨-, e, -⟩ | ⟨-, e⟩ | ⟨hb, l, c, e, -⟩ | ⟨-, e⟩ <;> rw [e]
  · exact cmdWrite_sound (h.respond .ok) v
  · exact h.respond _
  · exact (h.setIe _).respond _
  · exact (inv_hostStores h hb h.mem_wf h.mem_within).respond _
  · exact h.respond _

theorem hostWrite_sound (h : Inv s) (off : Word) (size : BusSize) (v : Word) :
    SoundFrom s (hostWrite s off size v) := by
  rcases hostWrite_cases s off size v with ⟨r, -, -, e⟩ | e | ⟨hb, hlegal, e⟩ <;> rw [e]
  · exact hostWriteReg_sound h r v
  · exact h.respond _
  · have hinside := pbufLegal_inside hlegal
    exact (inv_hostStores h hb (Memory.wf_writeBytes _ _ h.mem_wf)
      (Memory.within_writeBytes _ h.mem_within (by rwa [lanes_length]))).respond _

theorem hostRead_sound (h : Inv s) (off : Word) (size : BusSize) :
    SoundFrom s (hostRead s off size) := by
  rcases hostRead_cases s off size with ⟨a, e⟩ | ⟨i, e, hi, hlegal⟩ <;> rw [e]
  · exact h.respond a
  · exact soundFrom_bytes_fault hi (pbufLegal_inside hlegal)

theorem sequencerTurn_sound (h : Inv s) : SoundFrom s (sequencerTurn s) := by
  rcases sequencerTurn_cases s with ⟨-, e⟩ | ⟨-, i, -, e⟩ | ⟨hb, hnone, e⟩ <;> rw [e]
  · exact h
  · exact exec_sound h i
  · exact absurd (h.inProgress_isSome hb) (by simp [hnone])

theorem perform_sound (h : Inv s) (e : Event) : SoundFrom s (perform e s) := by
  cases e with
  | host a =>
    cases a with
    | read off size => exact hostRead_sound h off size
    | write off size v => exact hostWrite_sound h off size v
  | sequencer => exact sequencerTurn_sound h
  | reset => exact inv_applyReset h.mem_wf h.mem_within
  | connectInput answers => exact h.outside s.agenda answers s.tx s.sent s.response
  | connectOutput answers => exact h.outside s.agenda s.rx answers s.sent s.response

/-- From a state of the invariant every step answers another, or faults on an unwritten byte. -/
theorem step_sound (h : Inv s) : SoundFrom s (step s) := by
  rcases step_cases s with ⟨-, e⟩ | ⟨ev, rest, -, e⟩ <;> rw [e]
  · exact sequencerTurn_sound h
  · exact perform_sound (h.outside rest s.rx s.tx s.sent s.response) ev

end Invariant

/-- Settles O49: what `step_sound` says of a next state. -/
theorem invariantKeptByEveryStep : Obligations.InvariantKeptByEveryStep := by
  intro s t h e
  have hs := step_sound h
  rwa [e] at hs

/-- Settles O50: what `step_sound` says of a stop. -/
theorem onlyAnUnwrittenReadStopsTheMachine : Obligations.OnlyAnUnwrittenReadStopsTheMachine := by
  intro s h
  have hs := step_sound h
  refine ⟨fun r e => ?_, fun f e => ?_⟩
  · rw [e] at hs
    exact hs
  · rw [e] at hs
    obtain ⟨i⟩ := f
    exact ⟨i, rfl, hs⟩

theorem inv_resetWith (c : Config) : Inv (State.resetWith c) :=
  inv_applyReset (s := State.resetWith c) (reset_mem_wf c) fun _ hc => absurd hc List.not_mem_nil

/-- Settles O48: `State.resetWith` is what a reset makes of a machine with nothing in PBUF. -/
theorem invariantHoldsAtReset : Obligations.InvariantHoldsAtReset :=
  ⟨inv_resetWith _, inv_resetWith⟩

end Sys2Proof.Machine

/-! # What only the host and reset write (rules R19, R34) -/

namespace Sys2Proof.Machine

section HostSide

/-- The registers that only the host and reset write, the parameters, and the agenda. -/
def State.hostSide (s : State) : Config × Bool × Word64 × Word × List Event :=
  (s.cfg, s.ie, s.argLen, s.argCrc, s.agenda)

/-- A next state that `r` answers has the host's side of `s`. -/
def KeepsHostSide (s : State) (r : Result) : Prop := ∀ t, r = .next t → t.hostSide = s.hostSide

variable {s t : State}

theorem keepsHostSide_next (h : t.hostSide = s.hostSide) : KeepsHostSide s (.next t) := by
  rintro _ ⟨⟩
  exact h

theorem keepsHostSide_fault (f : Fault) : KeepsHostSide s (.fault f) := by
  rintro _ ⟨⟩

theorem keepsHostSide_refused (r : Refusal) : KeepsHostSide s (.refused r) := by
  rintro _ ⟨⟩

/-! ## The sequencer -/

theorem capacityCheck_hostSide (s : State) : (capacityCheck s).hostSide = s.hostSide := by
  rcases capacityCheck_cases s with ⟨-, e⟩ | ⟨-, e⟩ | ⟨-, -, e⟩ <;> rw [e] <;> rfl

theorem lengthCheck_hostSide (s : State) : (lengthCheck s).hostSide = s.hostSide := by
  rcases lengthCheck_cases s with ⟨-, e⟩ | ⟨-, e⟩ <;> rw [e]
  · rfl
  · exact capacityCheck_hostSide _

theorem dataCheck_hostSide (s : State) : (dataCheck s).hostSide = s.hostSide := by
  rcases dataCheck_cases s with ⟨-, e⟩ | ⟨-, e⟩ <;> rw [e] <;> rfl

theorem footerEof_hostSide (s : State) : (footerEof s).hostSide = s.hostSide := by
  unfold footerEof
  split
  · rfl
  · exact dataCheck_hostSide s

theorem headerByte_hostSide (s : State) (b : Byte) : KeepsHostSide s (headerByte s b) := by
  unfold headerByte headerStored
  split
  · apply keepsHostSide_next
    split
    · exact lengthCheck_hostSide _
    · rfl
  · exact keepsHostSide_refused _

theorem payloadByte_hostSide (s : State) (b : Byte) : KeepsHostSide s (payloadByte s b) := by
  unfold payloadByte payloadStored
  split
  · apply keepsHostSide_next
    split <;> rfl
  · exact keepsHostSide_refused _

theorem footerByte_hostSide (s : State) (b : Byte) : KeepsHostSide s (footerByte s b) := by
  unfold footerByte footerStored
  split
  · apply keepsHostSide_next
    split
    · exact dataCheck_hostSide _
    · rfl
  · exact keepsHostSide_refused _

theorem readingStep_hostSide {onByte : State → Byte → Result} {onEof : State → State} (s : State)
    (hbyte : ∀ u b, KeepsHostSide u (onByte u b)) (heof : ∀ u, (onEof u).hostSide = u.hostSide) :
    KeepsHostSide s (readingStep onByte onEof s) := by
  rcases readingStep_cases onByte onEof s with
    ⟨-, e⟩ | ⟨b, r, -, e⟩ | ⟨r, -, e⟩ | ⟨r, -, e⟩ <;> rw [e]
  · exact keepsHostSide_next rfl
  · exact hbyte { s with rx := r } b
  · exact keepsHostSide_next (heof s)
  · exact keepsHostSide_next rfl

theorem execDecode_hostSide (s : State) : KeepsHostSide s (execDecode s) := by
  unfold execDecode
  split
  · exact keepsHostSide_next rfl
  · split
    · exact readingStep_hostSide s headerByte_hostSide fun _ => rfl
    · exact readingStep_hostSide s payloadByte_hostSide fun _ => rfl
    · exact readingStep_hostSide s footerByte_hostSide footerEof_hostSide
    all_goals exact keepsHostSide_next rfl

theorem writingStep_hostSide {onOk : State → State} (s : State) (b : Byte)
    (hok : ∀ u, (onOk u).hostSide = u.hostSide) : KeepsHostSide s (writingStep b onOk s) := by
  rcases writingStep_cases b onOk s with ⟨-, e⟩ | ⟨r, -, e⟩ | ⟨r, -, e⟩ <;> rw [e]
  · exact keepsHostSide_next rfl
  · exact keepsHostSide_next (hok _)
  · exact keepsHostSide_next rfl

theorem headerSent_hostSide (s : State) : (headerSent s).hostSide = s.hostSide := by
  unfold headerSent
  split <;> rfl

theorem payloadSent_hostSide (s : State) : (payloadSent s).hostSide = s.hostSide := by
  unfold payloadSent
  split <;> rfl

theorem footerSent_hostSide (s : State) : (footerSent s).hostSide = s.hostSide := by
  unfold footerSent
  split <;> rfl

theorem encodeStart_hostSide (s : State) : KeepsHostSide s (encodeStart s) := by
  rcases encodeStart_cases s with ⟨-, e⟩ | ⟨-, i, -, e⟩ | ⟨-, p, -, e⟩ <;> rw [e]
  · exact keepsHostSide_next rfl
  · exact keepsHostSide_fault _
  · exact keepsHostSide_next rfl

theorem encodeHeader_hostSide (s : State) : KeepsHostSide s (encodeHeader s) := by
  unfold encodeHeader
  split
  · exact keepsHostSide_refused _
  · exact writingStep_hostSide s _ fun u => headerSent_hostSide u.countHdr

theorem encodePayload_hostSide (s : State) : KeepsHostSide s (encodePayload s) := by
  unfold encodePayload
  split
  · split
    · exact keepsHostSide_fault _
    · exact writingStep_hostSide s _ fun u => payloadSent_hostSide u.countPay
  · exact keepsHostSide_refused _

theorem encodeFooter_hostSide (s : State) : KeepsHostSide s (encodeFooter s) := by
  unfold encodeFooter
  split
  · exact keepsHostSide_refused _
  · exact writingStep_hostSide s _ fun u => footerSent_hostSide u.countFtr

theorem execEncode_hostSide (s : State) : KeepsHostSide s (execEncode s) := by
  rcases execEncode_cases s with ⟨-, e⟩ | ⟨-, -, -, -, -, e⟩ |
    ⟨-, ⟨-, e⟩ | ⟨-, e⟩ | ⟨-, e⟩ | ⟨-, e⟩⟩ <;> rw [e]
  · exact keepsHostSide_next rfl
  · exact keepsHostSide_next rfl
  · exact encodeStart_hostSide s
  · exact encodeHeader_hostSide s
  · exact encodePayload_hostSide s
  · exact encodeFooter_hostSide s

theorem oneStep_hostSide {i : Instr} {effect : State → Result} (s : State)
    (heff : KeepsHostSide s (effect s)) : KeepsHostSide s (oneStep i effect s) := by
  rcases oneStep_cases i effect s with ⟨-, e⟩ | ⟨-, -, -, e⟩ | ⟨-, -, e⟩ <;> rw [e]
  · exact keepsHostSide_next rfl
  · exact heff
  · exact keepsHostSide_next rfl

theorem crc32cStep_hostSide (s : State) : KeepsHostSide s (crc32cStep s) := by
  unfold crc32cStep
  split
  · exact keepsHostSide_next rfl
  · split
    · exact keepsHostSide_fault _
    · exact keepsHostSide_next rfl

/-- No command writes an operand, CTRL.IE or a parameter (rules R19, R34). -/
theorem exec_hostSide (i : Instr) (s : State) : KeepsHostSide s (exec i s) := by
  cases i
  case crc32c => exact oneStep_hostSide s (crc32cStep_hostSide s)
  case decode => exact execDecode_hostSide s
  case encode => exact execEncode_hostSide s
  all_goals exact oneStep_hostSide s (keepsHostSide_next rfl)

theorem sequencerTurn_hostSide (s : State) : KeepsHostSide s (sequencerTurn s) := by
  rcases sequencerTurn_cases s with ⟨-, e⟩ | ⟨-, i, -, e⟩ | ⟨-, -, e⟩ <;> rw [e]
  · exact keepsHostSide_next rfl
  · exact exec_hostSide i s
  · exact keepsHostSide_refused _

/-! ## The host -/

theorem cmdWrite_hostSide (s : State) (w : Word) : KeepsHostSide s (cmdWrite s w) := by
  rcases cmdWrite_cases s w with ⟨-, e⟩ | ⟨-, i, -, e⟩ | ⟨-, _, -, e⟩ <;> rw [e]
  · exact keepsHostSide_next rfl
  · exact exec_hostSide i s
  · exact keepsHostSide_next rfl

/-- What a write to a register changes of the host's side: CTRL.IE by CTRL, the operands by their
registers while BUSY = 0 (rules R18, R19, R42). -/
theorem hostWriteReg_hostSide {r : Reg} {v : Word} (h : hostWriteReg s r v = .next t) :
    t.hostSide = s.hostSide ∨
    (r = .ctrl ∧ t.hostSide = { s with ie := v.getLsbD 0 }.hostSide) ∨
    (s.status.busy = false ∧ (r = .argLenLo ∨ r = .argLenHi ∨ r = .argCrc) ∧
      ∃ l c, t.hostSide = { s with argLen := l, argCrc := c }.hostSide) := by
  rcases hostWriteReg_cases s r v with ⟨-, e⟩ | ⟨-, e, -⟩ | ⟨hr, e⟩ | ⟨hb, l, c, e, hr⟩ | ⟨-, e⟩ <;>
    rw [e] at h
  · exact .inl (cmdWrite_hostSide (s.respond .ok) v t h)
  · cases h; exact .inl rfl
  · cases h; exact .inr (.inl ⟨hr, rfl⟩)
  · cases h; exact .inr (.inr ⟨hb, hr, l, c, rfl⟩)
  · cases h; exact .inl rfl

theorem hostRead_hostSide (s : State) (off : Word) (size : BusSize) :
    KeepsHostSide s (hostRead s off size) := by
  rcases hostRead_cases s off size with ⟨a, e⟩ | ⟨i, e, -⟩ <;> rw [e]
  · exact keepsHostSide_next rfl
  · exact keepsHostSide_fault _

end HostSide

/-- The operands, CTRL.IE and the parameters of two states with one host's side. -/
theorem operands_eq_of_hostSide {s t : State} (h : t.hostSide = s.hostSide) :
    t.cfg = s.cfg ∧ t.argLen = s.argLen ∧ t.argCrc = s.argCrc ∧ t.ie = s.ie ∧
    t.agenda = s.agenda := by
  simp only [State.hostSide, Prod.mk.injEq] at h
  obtain ⟨hcfg, hie, hlen, hcrc, hag⟩ := h
  exact ⟨hcfg, hlen, hcrc, hie, hag⟩

/-- What any access of the host changes of its side. -/
theorem hostAccess_hostSide {s t : State} {a : Access} (h : hostAccess s a = .next t) :
    t.hostSide = s.hostSide ∨
    ∃ off v, a = .write off .b4 v ∧
      ((off = 0x008#32 ∧ ∃ b, t.hostSide = { s with ie := b }.hostSide) ∨
       (s.status.busy = false ∧ off ∈ [0x010#32, 0x014#32, 0x018#32] ∧
        ∃ l c, t.hostSide = { s with argLen := l, argCrc := c }.hostSide)) := by
  cases a with
  | read off size => exact .inl (hostRead_hostSide s off size t h)
  | write off size v =>
    simp only [hostAccess] at h
    rcases hostWrite_cases s off size v with ⟨r, rfl, rfl, e⟩ | e | ⟨-, -, e⟩ <;> rw [e] at h
    · rcases hostWriteReg_hostSide h with hk | ⟨rfl, hk⟩ | ⟨hb, hr, hk⟩
      · exact .inl hk
      · exact .inr ⟨_, v, rfl, .inl ⟨rfl, _, hk⟩⟩
      · refine .inr ⟨_, v, rfl, .inr ⟨hb, ?_, hk⟩⟩
        rcases hr with rfl | rfl | rfl <;> decide
    · cases h; exact .inl rfl
    · cases h; exact .inl rfl

/-- Settles O52: the sequencer keeps the host's side; of the other agents only the host's writes to
CTRL and the operands, and reset, change it. -/
theorem operandRegistersAreWrittenOnlyByTheHost :
    Obligations.OperandRegistersAreWrittenOnlyByTheHost := by
  intro s t h
  have kept {ag : List Event} (hk : t.hostSide = { s with agenda := ag }.hostSide) :
      t.cfg = s.cfg ∧ t.argLen = s.argLen ∧ t.argCrc = s.argCrc ∧ t.ie = s.ie := by
    obtain ⟨hcfg, hlen, hcrc, hie, -⟩ := operands_eq_of_hostSide hk
    exact ⟨hcfg, hlen, hcrc, hie⟩
  rcases step_cases s with ⟨-, e⟩ | ⟨ev, rest, hag, e⟩ <;> rw [e] at h
  · exact (kept (ag := s.agenda) (sequencerTurn_hostSide s t h)).imp_right .inl
  · cases ev with
    | host a =>
      rcases hostAccess_hostSide h with hk | ⟨off, v, rfl, ⟨rfl, b, hk⟩ | ⟨hb, hoff, l, c, hk⟩⟩
      · exact (kept hk).imp_right .inl
      · obtain ⟨hcfg, hlen, hcrc, -, -⟩ := operands_eq_of_hostSide hk
        exact ⟨hcfg, .inr (.inr ⟨_, v, rest, hag, .inl ⟨rfl, hlen, hcrc⟩⟩)⟩
      · obtain ⟨hcfg, -, -, hie, -⟩ := operands_eq_of_hostSide hk
        exact ⟨hcfg, .inr (.inr ⟨off, v, rest, hag, .inr ⟨hb, hie, hoff⟩⟩)⟩
    | sequencer =>
      exact (kept (sequencerTurn_hostSide { s with agenda := rest } t h)).imp_right .inl
    | reset =>
      cases h
      exact ⟨rfl, .inr (.inl ⟨rest, hag⟩)⟩
    | connectInput answers =>
      cases h
      exact ⟨rfl, .inl ⟨rfl, rfl, rfl⟩⟩
    | connectOutput answers =>
      cases h
      exact ⟨rfl, .inl ⟨rfl, rfl, rfl⟩⟩

end Sys2Proof.Machine

/-! # Two DECODEs of one stream (rules R27, R58, R77) -/

namespace Sys2Proof.Machine

section Alike

/-- Two scratch buffers hold the same first `k` bytes. -/
def AgreeBelow {n : Nat} (k : Nat) (v w : Vector Byte n) : Prop :=
  ∀ (i : Nat) (h : i < n), i < k → v[i] = w[i]

theorem agreeBelow_zero {n : Nat} (v w : Vector Byte n) : AgreeBelow 0 v w :=
  fun _ _ hi => absurd hi (Nat.not_lt_zero _)

theorem AgreeBelow.set {n k : Nat} {v w : Vector Byte n} (h : AgreeBelow k v w) (b : Byte) :
    AgreeBelow (k + 1) (v.setIfInBounds k b) (w.setIfInBounds k b) := by
  intro i hi hk
  simp only [Vector.getElem_setIfInBounds]
  split
  · rfl
  · exact h i hi (by omega)

theorem AgreeBelow.eq {n : Nat} {v w : Vector Byte n} (h : AgreeBelow n v w) : v = w :=
  Vector.ext fun i hi => h i hi hi

/-- Two PBUFs hold the same first `k` bytes, all of them written. -/
def Memory.WrittenAlike (k : Nat) (m m' : Memory) : Prop :=
  ∀ i < k, m.read i ≠ none ∧ m.read i = m'.read i

theorem Memory.WrittenAlike.write {k : Nat} {m m' : Memory} (h : m.WrittenAlike k m') (b : Byte) :
    Memory.WrittenAlike (k + 1) (m.write k b) (m'.write k b) := by
  intro i hi
  simp only [Memory.read_write]
  split
  · exact ⟨by simp, rfl⟩
  · exact h i (by omega)

/-- What a DECODE reports, with what its steps depend on besides the scratch buffers and ACC. -/
def State.report (s : State) :
    Config × Status × Seq × Word64 × Word64 × Word × Word × List ReadAnswer :=
  (s.cfg, s.status, s.seq, s.frmLen, s.payCnt, s.crcStored, s.crcComputed, s.rx)

/-- Two machines under STRICT report the same and hold the same payload so far. -/
structure ReportAlike (s s' : State) : Prop where
  report : s.report = s'.report
  strict : s.cfg.footerPolicy = .strict
  payload : s.mem.WrittenAlike s.payCnt.toNat s'.mem

/-- What two DECODEs of one stream share at each place: the scratch bytes read so far, and ACC. -/
def PlaceAlike (s s' : State) : Prop :=
  match s.seq with
  | .idle => s.status.busy = false
  | .decHdr => s.status.busy = true ∧ s.status.hdrCnt.toNat < 12 ∧ s.status.ftrCnt = 0 ∧
      s.payCnt = 0 ∧ AgreeBelow s.status.hdrCnt.toNat s.hdr s'.hdr
  | .decPay => s.status.busy = true ∧ s.status.ftrCnt = 0 ∧ s.payCnt.toNat < s.frmLen.toNat ∧
      s.frmLen.toNat ≤ s.pbufBytes ∧ s.acc = s'.acc
  | .decFtr => s.status.busy = true ∧ s.status.ftrCnt.toNat < 4 ∧ s.acc = s'.acc ∧
      AgreeBelow s.status.ftrCnt.toNat s.ftr s'.ftr
  | .pure | .encStart | .encHdr | .encPay | .encFtr => False

/-- Two DECODEs of one stream, in progress or ended. -/
structure DecodeAlike (s s' : State) : Prop extends ReportAlike s s' where
  place : PlaceAlike s s'

/-- Both answers are next states, of DECODEs alike. -/
def NextAlike (r r' : Result) : Prop :=
  ∃ t t', r = .next t ∧ r' = .next t' ∧ DecodeAlike t t'

variable {s s' : State}

theorem DecodeAlike.next (h : DecodeAlike s s') : NextAlike (.next s) (.next s') :=
  ⟨s, s', rfl, rfl, h⟩

theorem ReportAlike.fields (h : ReportAlike s s') :
    s.cfg = s'.cfg ∧ s.status = s'.status ∧ s.seq = s'.seq ∧ s.frmLen = s'.frmLen ∧
    s.payCnt = s'.payCnt ∧ s.crcStored = s'.crcStored ∧ s.crcComputed = s'.crcComputed ∧
    s.rx = s'.rx := by
  simpa only [State.report, Prod.mk.injEq] using h.report

theorem ReportAlike.finish (h : ReportAlike s s') (rc : ResultCode) :
    DecodeAlike (s.finish rc) (s'.finish rc) := by
  obtain ⟨hcfg, hst, -, hfrm, hpay, hsto, hcom, hrx⟩ := h.fields
  exact ⟨⟨by simp only [State.report, State.finish, hcfg, hst, hfrm, hpay, hsto, hcom, hrx],
    h.strict, h.payload⟩, rfl⟩

theorem ReportAlike.consume (h : ReportAlike s s') (r : List ReadAnswer) :
    ReportAlike { s with rx := r } { s' with rx := r } := by
  obtain ⟨hcfg, hst, hseq, hfrm, hpay, hsto, hcom, -⟩ := h.fields
  exact ⟨by simp only [State.report, hcfg, hst, hseq, hfrm, hpay, hsto, hcom], h.strict, h.payload⟩

/-- A check that decides alike in both machines. -/
theorem DecodeAlike.ite {c c' : Prop} [Decidable c] [Decidable c'] {t t' u u' : State}
    (hc : c ↔ c') (ht : c → DecodeAlike t t') (hu : ¬c → DecodeAlike u u') :
    DecodeAlike (if c then t else u) (if c' then t' else u') := by
  by_cases h : c
  · rw [if_pos h, if_pos (hc.mp h)]
    exact ht h
  · rw [if_neg h, if_neg (mt hc.mpr h)]
    exact hu h

/-! ## The checks -/

theorem capacityCheck_alike (h : ReportAlike s s') (hb : s.status.busy = true)
    (hftr : s.status.ftrCnt = 0) (hpay0 : s.payCnt = 0) :
    DecodeAlike (capacityCheck s) (capacityCheck s') := by
  obtain ⟨hcfg, hst, hseq, hfrm, hpay, hsto, hcom, hrx⟩ := h.fields
  have started {q : Seq} :
      ReportAlike { s with acc := crcInit, seq := q } { s' with acc := crcInit, seq := q } :=
    ⟨by simp only [State.report, hcfg, hst, hfrm, hpay, hsto, hcom, hrx], h.strict, h.payload⟩
  refine DecodeAlike.ite (by simp only [State.pbufBytes, hfrm, hcfg]) (fun _ => h.finish _)
    fun hcap => ?_
  by_cases h0 : s.frmLen = 0
  · rw [if_pos h0, if_pos (hfrm ▸ h0)]
    exact ⟨started, hb, by simp [hftr], rfl, by simpa [hftr] using agreeBelow_zero s.ftr s'.ftr⟩
  · rw [if_neg h0, if_neg (hfrm ▸ h0)]
    exact ⟨started, hb, hftr, toNat_lt_of_zero hpay0 h0, Nat.le_of_not_lt hcap, rfl⟩

theorem lengthCheck_alike (h : ReportAlike s s') (hb : s.status.busy = true)
    (hftr : s.status.ftrCnt = 0) (hpay0 : s.payCnt = 0) (hhdr : s.hdr = s'.hdr) :
    DecodeAlike (lengthCheck s) (lengthCheck s') := by
  obtain ⟨hcfg, hst, hseq, hfrm, hpay, hsto, hcom, hrx⟩ := h.fields
  have hc : ReportAlike (compareLength s) (compareLength s') :=
    ⟨by simp only [State.report, compareLength, hcfg, hst, hseq, hpay, hrx, hhdr], h.strict,
      h.payload⟩
  exact DecodeAlike.ite (by simp [hhdr]) (fun _ => capacityCheck_alike hc hb hftr hpay0)
    fun _ => hc.finish _

theorem dataCheck_alike (h : ReportAlike s s') (hacc : s.acc = s'.acc) (hftr : s.ftr = s'.ftr) :
    DecodeAlike (dataCheck s) (dataCheck s') := by
  obtain ⟨hcfg, hst, hseq, hfrm, hpay, hsto, hcom, hrx⟩ := h.fields
  have hc : ReportAlike (compareData s) (compareData s') :=
    ⟨by simp only [State.report, compareData, hcfg, hst, hseq, hfrm, hpay, hrx, hacc, hftr],
      h.strict, h.payload⟩
  have ha : ReportAlike (accept (compareData s)) (accept (compareData s')) :=
    ⟨by simp only [State.report, accept, compareData, hcfg, hst, hseq, hfrm, hpay, hrx, hacc, hftr],
      h.strict, h.payload⟩
  exact DecodeAlike.ite (by simp [hacc, hftr]) (fun _ => ha.finish _) fun _ => hc.finish _

/-! ## The three places -/

theorem placeAlike_decHdr (hq : s.seq = .decHdr) : PlaceAlike s s' ↔
    s.status.busy = true ∧ s.status.hdrCnt.toNat < 12 ∧ s.status.ftrCnt = 0 ∧ s.payCnt = 0 ∧
    AgreeBelow s.status.hdrCnt.toNat s.hdr s'.hdr := by
  simp only [PlaceAlike, hq]

theorem placeAlike_decPay (hq : s.seq = .decPay) : PlaceAlike s s' ↔
    s.status.busy = true ∧ s.status.ftrCnt = 0 ∧ s.payCnt.toNat < s.frmLen.toNat ∧
    s.frmLen.toNat ≤ s.pbufBytes ∧ s.acc = s'.acc := by
  simp only [PlaceAlike, hq]

theorem placeAlike_decFtr (hq : s.seq = .decFtr) : PlaceAlike s s' ↔
    s.status.busy = true ∧ s.status.ftrCnt.toNat < 4 ∧ s.acc = s'.acc ∧
    AgreeBelow s.status.ftrCnt.toNat s.ftr s'.ftr := by
  simp only [PlaceAlike, hq]

theorem headerByte_alike (h : DecodeAlike s s') (hq : s.seq = .decHdr) (b : Byte) :
    NextAlike (headerByte s b) (headerByte s' b) := by
  obtain ⟨hb, hcnt, hftr, hpay0, hhdr⟩ := (placeAlike_decHdr hq).mp h.place
  obtain ⟨hcfg, hst, hseq, hfrm, hpay, hsto, hcom, hrx⟩ := h.fields
  have hset : AgreeBelow (s.status.hdrCnt + 1).toNat
      (s.hdr.setIfInBounds s.status.hdrCnt.toNat b)
      (s'.hdr.setIfInBounds s'.status.hdrCnt.toNat b) := by
    rw [toNat_add_one (n := 12) hcnt, ← hst]
    exact hhdr.set b
  have hs : ReportAlike
      (State.countHdr { s with hdr := s.hdr.setIfInBounds s.status.hdrCnt.toNat b })
      (State.countHdr { s' with hdr := s'.hdr.setIfInBounds s'.status.hdrCnt.toNat b }) :=
    ⟨by simp only [State.report, State.countHdr, hcfg, hst, hseq, hfrm, hpay, hsto, hcom, hrx],
      h.strict, h.payload⟩
  rw [headerByte, headerByte, if_pos hcnt, if_pos (hst ▸ hcnt)]
  refine ⟨_, _, rfl, rfl, DecodeAlike.ite (by simp [hst]) (fun h12 => ?_) fun h12 => ?_⟩
  · change s.status.hdrCnt + 1 = 12 at h12
    rw [h12] at hset
    exact lengthCheck_alike hs hb hftr hpay0 hset.eq
  · have hlt : (s.status.hdrCnt + 1).toNat < 12 := toNat_add_one_lt (n := 12) hcnt h12
    exact ⟨hs, (placeAlike_decHdr (by exact hq)).mpr ⟨hb, hlt, hftr, hpay0, hset⟩⟩

theorem payloadByte_alike (h : DecodeAlike s s') (hq : s.seq = .decPay) (b : Byte) :
    NextAlike (payloadByte s b) (payloadByte s' b) := by
  obtain ⟨hb, hftr, hlt, hcap, hacc⟩ := (placeAlike_decPay hq).mp h.place
  obtain ⟨hcfg, hst, hseq, hfrm, hpay, hsto, hcom, hrx⟩ := h.fields
  have hmem : Memory.WrittenAlike (s.payCnt + 1).toNat (s.mem.write s.payCnt.toNat b)
      (s'.mem.write s'.payCnt.toNat b) := by
    rw [toNat_add_one hlt, ← hpay]
    exact h.payload.write b
  have hs {q : Seq} : ReportAlike
      { State.countPay { s with
          mem := s.mem.write s.payCnt.toNat b, acc := crcStep s.acc b } with seq := q }
      { State.countPay { s' with
          mem := s'.mem.write s'.payCnt.toNat b, acc := crcStep s'.acc b } with seq := q } :=
    ⟨by simp only [State.report, State.countPay, hcfg, hst, hfrm, hpay, hsto, hcom, hrx],
      h.strict, hmem⟩
  have hroom := hlt.trans_le hcap
  have hroom' : s'.payCnt.toNat < s'.pbufBytes := by rwa [State.pbufBytes, ← hcfg, ← hpay]
  rw [payloadByte, payloadByte, if_pos hroom, if_pos hroom']
  refine ⟨_, _, rfl, rfl, DecodeAlike.ite (by simp [hpay, hfrm]) (fun _ => ?_) fun hne => ?_⟩
  · exact ⟨hs, hb, by simp [hftr], by simp [hacc],
      by simpa [hftr] using agreeBelow_zero s.ftr s'.ftr⟩
  · have hlt' : (s.payCnt + 1).toNat < s.frmLen.toNat := toNat_add_one_lt hlt hne
    exact ⟨hseq ▸ hs (q := s.seq), (placeAlike_decPay (by exact hq)).mpr
      ⟨hb, hftr, hlt', hcap, by simp [hacc]⟩⟩

theorem footerByte_alike (h : DecodeAlike s s') (hq : s.seq = .decFtr) (b : Byte) :
    NextAlike (footerByte s b) (footerByte s' b) := by
  obtain ⟨hb, hcnt, hacc, hftr⟩ := (placeAlike_decFtr hq).mp h.place
  obtain ⟨hcfg, hst, hseq, hfrm, hpay, hsto, hcom, hrx⟩ := h.fields
  have hset : AgreeBelow (s.status.ftrCnt + 1).toNat
      (s.ftr.setIfInBounds s.status.ftrCnt.toNat b)
      (s'.ftr.setIfInBounds s'.status.ftrCnt.toNat b) := by
    rw [toNat_add_one (n := 4) hcnt, ← hst]
    exact hftr.set b
  have hs : ReportAlike
      (State.countFtr { s with ftr := s.ftr.setIfInBounds s.status.ftrCnt.toNat b })
      (State.countFtr { s' with ftr := s'.ftr.setIfInBounds s'.status.ftrCnt.toNat b }) :=
    ⟨by simp only [State.report, State.countFtr, hcfg, hst, hseq, hfrm, hpay, hsto, hcom, hrx],
      h.strict, h.payload⟩
  rw [footerByte, footerByte, if_pos hcnt, if_pos (hst ▸ hcnt)]
  refine ⟨_, _, rfl, rfl, DecodeAlike.ite (by simp [hst]) (fun h4 => ?_) fun h4 => ?_⟩
  · change s.status.ftrCnt + 1 = 4 at h4
    rw [h4] at hset
    exact dataCheck_alike hs hacc hset.eq
  · have hlt : (s.status.ftrCnt + 1).toNat < 4 := toNat_add_one_lt (n := 4) hcnt h4
    exact ⟨hs, (placeAlike_decFtr (by exact hq)).mpr ⟨hb, hlt, hacc, hset⟩⟩

theorem readingStep_alike {onByte : State → Byte → Result} {onEof : State → State}
    (h : DecodeAlike s s')
    (hbyte : ∀ u u', DecodeAlike u u' → u.seq = s.seq → ∀ b, NextAlike (onByte u b) (onByte u' b))
    (heof : DecodeAlike (onEof s) (onEof s')) :
    NextAlike (readingStep onByte onEof s) (readingStep onByte onEof s') := by
  obtain ⟨-, -, -, -, -, -, -, hrx⟩ := h.fields
  cases hr : s.rx with
  | nil =>
    simp only [readingStep, State.chanRead, ← hrx, hr]
    exact h.next
  | cons a r =>
    cases a with
    | byte b =>
      simp only [readingStep, State.chanRead, ← hrx, hr]
      exact hbyte _ _ ⟨h.consume r, h.place⟩ rfl b
    | eof =>
      simp only [readingStep, State.chanRead, ← hrx, hr]
      exact heof.next
    | fail =>
      simp only [readingStep, State.chanRead, ← hrx, hr]
      exact ((h.consume r).finish .ioFailure).next

theorem sequencerTurn_alike (h : DecodeAlike s s') :
    NextAlike (sequencerTurn s) (sequencerTurn s') := by
  obtain ⟨hcfg, hst, hseq, hfrm, hpay, hsto, hcom, hrx⟩ := h.fields
  have hp := h.place
  cases hq : s.seq <;> simp only [PlaceAlike, hq] at hp
  case idle =>
    rw [sequencerTurn_of_free hp, sequencerTurn_of_free (hst ▸ hp)]
    exact h.next
  case decHdr =>
    obtain ⟨hb, -⟩ := hp
    rw [sequencerTurn_decHdr hb hq, sequencerTurn_decHdr (hst ▸ hb) (hseq ▸ hq)]
    refine readingStep_alike h (fun u u' hu hqu => headerByte_alike hu (hqu.trans hq)) ?_
    simp only [headerEof, ← hst]
    exact h.finish _
  case decPay =>
    obtain ⟨hb, -⟩ := hp
    rw [sequencerTurn_decPay hb hq, sequencerTurn_decPay (hst ▸ hb) (hseq ▸ hq)]
    exact readingStep_alike h (fun u u' hu hqu => payloadByte_alike hu (hqu.trans hq)) (h.finish _)
  case decFtr =>
    obtain ⟨hb, -⟩ := hp
    rw [sequencerTurn_decFtr hb hq, sequencerTurn_decFtr (hst ▸ hb) (hseq ▸ hq)]
    refine readingStep_alike h (fun u u' hu hqu => footerByte_alike hu (hqu.trans hq)) ?_
    simp only [footerEof, ← hcfg, h.strict]
    exact h.finish _

/-- The issue of a DECODE clears every field that the report holds (rules R77, R101). -/
theorem decodeIssue_alike (hcfg : s.cfg = s'.cfg) (hrx : s.rx = s'.rx)
    (hstrict : s.cfg.footerPolicy = .strict) :
    DecodeAlike (decodeIssue s) (decodeIssue s') where
  report := by
    simp only [State.report, decodeIssue, latch_cfg, latch_status, latch_seq, latch_rx, hcfg, hrx,
      Status.clearForIssue]
  strict := hstrict
  payload := fun i hi => absurd hi (Nat.not_lt_zero i)
  place := ⟨rfl, Nat.succ_pos 11, rfl, rfl, agreeBelow_zero _ _⟩

/-- Turns of the sequencer keep two DECODEs alike, however many. -/
theorem run_alike (n : Nat) {s s' : State} (h : DecodeAlike s s')
    (hag : s.agenda = List.replicate n .sequencer)
    (hag' : s'.agenda = List.replicate n .sequencer) :
    NextAlike (run n s) (run n s') := by
  induction n generalizing s s' with
  | zero => exact h.next
  | succ n ih =>
    rw [List.replicate_succ] at hag hag'
    have hrest : DecodeAlike { s with agenda := List.replicate n .sequencer }
        { s' with agenda := List.replicate n .sequencer } :=
      ⟨⟨h.report, h.strict, h.payload⟩, h.place⟩
    obtain ⟨t, t', ht, ht', hnext⟩ := sequencerTurn_alike hrest
    rw [run_succ_of_next n ((step_cons hag).trans ht),
      run_succ_of_next n ((step_cons hag').trans ht')]
    obtain ⟨-, -, -, -, hagt⟩ := operands_eq_of_hostSide (sequencerTurn_hostSide _ _ ht)
    obtain ⟨-, -, -, -, hagt'⟩ := operands_eq_of_hostSide (sequencerTurn_hostSide _ _ ht')
    exact ih hnext hagt hagt'

end Alike

/-- Settles O59: the issue makes the two machines alike, and every turn keeps them so. -/
theorem strictDecodeDependsOnlyOnTheStream : Obligations.StrictDecodeDependsOnlyOnTheStream := by
  intro s s' n hb hb' hcfg hstrict hrx hag hag'
  have hissue := step_issueDecode hag hb
  have hissue' := step_issueDecode (hag'.trans hag) hb'
  have hstart := decodeIssue_alike
    (s := { s with agenda := List.replicate n .sequencer }.respond .ok)
    (s' := { s' with agenda := List.replicate n .sequencer }.respond .ok) hcfg hrx hstrict
  obtain ⟨t, t', ht, ht', halike⟩ := run_alike n hstart rfl rfl
  obtain ⟨-, hst, hseq, hfrm, hpay, hsto, hcom, hrxt⟩ := halike.fields
  rw [Nat.add_comm, run_succ_of_next n hissue, run_succ_of_next n hissue']
  exact ⟨t, t', ht, ht', hst, hseq, hfrm, hpay, hsto, hcom, hrxt, halike.payload⟩

end Sys2Proof.Machine

/-! # The host bus (rules R36 to R45) -/

namespace Sys2Proof.Machine

section Bus

variable {s t : State} {rest : List Event} {off v : Word} {size : BusSize}

/-! ## Writes of registers (rules R37, R39, R42) -/

theorem inRegisterRegion_iff : inRegisterRegion off = true ↔ off.toNat < 0x1000 :=
  decide_eq_true_iff

theorem hostWrite_register (s : State) (r : Reg) (v : Word) :
    hostWrite s (regOffset r) .b4 v = hostWriteReg s r v := by
  have hregion : inRegisterRegion (regOffset r) = true := inRegisterRegion_iff.mpr (regOffset_lt r)
  have haccess : regAccess (regOffset r) .b4 = some r := regAccess_eq_some.mpr ⟨rfl, rfl⟩
  simp only [hostWrite, hregion, if_true, haccess]

theorem hostWriteReg_stored {r : Reg} (hr : r ≠ .cmd) (hw : writeReg s r v = some t) :
    hostWriteReg s r v = .next (t.respond .ok) := by
  cases r
  case cmd => exact absurd rfl hr
  all_goals simp only [hostWriteReg, hw]

theorem hostWriteReg_refused {r : Reg} (hr : r ≠ .cmd) (hw : writeReg s r v = none) :
    hostWriteReg s r v = .next (s.respond .busError) := by
  cases r
  case cmd => exact absurd rfl hr
  all_goals simp only [hostWriteReg, hw]

/-- A register write that is stored or ignored answers Ok. -/
theorem step_writeReg {r : Reg} (h : s.agenda = .host (.write (regOffset r) .b4 v) :: rest)
    (hr : r ≠ .cmd) (hw : writeReg { s with agenda := rest } r v = some t) :
    step s = .next (t.respond .ok) := by
  rw [step_cons h]
  exact (hostWrite_register _ r v).trans (hostWriteReg_stored hr hw)

theorem step_writeReg_refused {r : Reg}
    (h : s.agenda = .host (.write (regOffset r) .b4 v) :: rest)
    (hr : r ≠ .cmd) (hw : writeReg { s with agenda := rest } r v = none) :
    step s = .next (State.respond { s with agenda := rest } .busError) := by
  rw [step_cons h]
  exact (hostWrite_register _ r v).trans (hostWriteReg_refused hr hw)

/-- The registers that the access column of rule R14 locks while BUSY = 1 (rule R42). -/
def lockedRegs : List Reg := [.argLenLo, .argLenHi, .argCrc]

/-- The read-only registers of rule R14. -/
def readOnlyRegs : List Reg :=
  [.status, .resultLo, .resultHi, .frmLenLo, .frmLenHi, .payCntLo, .payCntHi, .crcStored,
   .crcComputed, .hdr0, .hdr1, .hdr2, .ftr]

theorem writeReg_locked (s : State) {r : Reg} (v : Word) (hr : r ∈ lockedRegs)
    (hb : s.status.busy = true) : r ≠ .cmd ∧ writeReg s r v = none := by
  simp only [lockedRegs, List.mem_cons, List.not_mem_nil, or_false] at hr
  rcases hr with rfl | rfl | rfl <;> exact ⟨Reg.noConfusion, if_pos hb⟩

theorem writeReg_readOnly (s : State) {r : Reg} (v : Word) (hr : r ∈ readOnlyRegs) :
    r ≠ .cmd ∧ writeReg s r v = some s := by
  cases r
  case cmd | ctrl | argLenLo | argLenHi | argCrc => exact absurd hr (by decide)
  all_goals exact ⟨Reg.noConfusion, rfl⟩

/-- Settles O40: `writeReg`, by the access of the register that the offset names. -/
theorem registerWritesFollowTheAccessColumn :
    Obligations.RegisterWritesFollowTheAccessColumn := by
  intro s rest off v hag
  refine ⟨?ctrl, fun hfree => ⟨?argLenLo, ?argLenHi, ?argCrc⟩, fun hbusy hoff => ?locked,
    fun hoff => ?readOnly⟩
  case ctrl =>
    rintro rfl
    exact step_writeReg (r := .ctrl) hag Reg.noConfusion rfl
  case argLenLo =>
    rintro rfl
    exact step_writeReg (r := .argLenLo) hag Reg.noConfusion (if_neg (by simp [hfree]))
  case argLenHi =>
    rintro rfl
    exact step_writeReg (r := .argLenHi) hag Reg.noConfusion (if_neg (by simp [hfree]))
  case argCrc =>
    rintro rfl
    exact step_writeReg (r := .argCrc) hag Reg.noConfusion (if_neg (by simp [hfree]))
  case locked =>
    obtain ⟨r, hr, rfl⟩ : ∃ r ∈ lockedRegs, regOffset r = off := List.mem_map.mp hoff
    obtain ⟨hcmd, hw⟩ := writeReg_locked { s with agenda := rest } v hr hbusy
    exact step_writeReg_refused hag hcmd hw
  case readOnly =>
    obtain ⟨r, hr, rfl⟩ : ∃ r ∈ readOnlyRegs, regOffset r = off := List.mem_map.mp hoff
    obtain ⟨hcmd, hw⟩ := writeReg_readOnly { s with agenda := rest } v hr
    exact step_writeReg hag hcmd hw

/-! ## Accesses that reach nothing (rules R38, R41) -/

/-- Where the register map of rule R14 has its offsets. -/
theorem regOffset_mapped (r : Reg) : (regOffset r).toNat % 4 = 0 ∧ regOffset r ≠ 0x00C#32 ∧
    regOffset r ≠ 0x01C#32 ∧ (regOffset r).toNat < 0x050 := by
  cases r <;> decide

theorem regAccess_eq_none (h : size ≠ .b4 ∨ off.toNat % 4 ≠ 0 ∨ off = 0x00C#32 ∨ off = 0x01C#32 ∨
    0x050 ≤ off.toNat) : regAccess off size = none := by
  rw [Option.eq_none_iff_forall_ne_some]
  intro r hr
  obtain ⟨hsize, rfl⟩ := regAccess_eq_some.mp hr
  obtain ⟨haligned, hgap, hgap', hbelow⟩ := regOffset_mapped r
  rcases h with h | h | h | h | h
  · exact h hsize
  · exact h haligned
  · exact hgap h
  · exact hgap' h
  · omega

/-- An access names neither a register nor bytes of the PBUF window (rules R37, R38, R40, R41). -/
def ReachesNothing (s : State) (off : Word) (size : BusSize) : Prop :=
  (off.toNat < 0x1000 → regAccess off size = none) ∧
  (0x1000 ≤ off.toNat → pbufLegal s off size = false)

theorem hostRead_of_reachesNothing (h : ReachesNothing s off size) :
    hostRead s off size = .next (s.respond .busError) := by
  obtain ⟨hreg, hpbuf⟩ := h
  rw [hostRead]
  split
  · next hregion => rw [hreg (inRegisterRegion_iff.mp hregion)]
  · next hregion =>
    rw [hpbuf (Nat.le_of_not_lt (mt inRegisterRegion_iff.mpr hregion)), if_neg Bool.false_ne_true]

theorem hostWrite_of_reachesNothing (h : ReachesNothing s off size) :
    hostWrite s off size v = .next (s.respond .busError) := by
  obtain ⟨hreg, hpbuf⟩ := h
  rw [hostWrite]
  split
  · next hregion => rw [hreg (inRegisterRegion_iff.mp hregion)]
  · next hregion =>
    rw [hpbuf (Nat.le_of_not_lt (mt inRegisterRegion_iff.mpr hregion)), Bool.false_and,
      if_neg Bool.false_ne_true]

/-- Settles O41: such an access reaches nothing, so both directions answer BusError. -/
theorem illegalAccessGetsBusError : Obligations.IllegalAccessGetsBusError := by
  intro s rest a off size hag ha hreg hpbuf
  have hnothing : ReachesNothing { s with agenda := rest } off size := by
    refine ⟨fun hlt => regAccess_eq_none (hreg hlt), fun hle => ?_⟩
    rw [Bool.eq_false_iff]
    intro hlegal
    obtain ⟨-, haligned, hinside⟩ := pbufLegal_iff.mp hlegal
    rcases hpbuf hle with h | h
    · exact h haligned
    · exact absurd hinside (Nat.not_le.mpr h)
  rw [step_cons hag]
  rcases ha with rfl | ⟨v, rfl⟩
  · exact hostRead_of_reachesNothing hnothing
  · exact hostWrite_of_reachesNothing hnothing

/-! ## Byte lanes (rules R10, R36) -/

theorem getElem?_lanes {n k : Nat} (v : Word) (hk : k < n) :
    (lanes n v)[k]? = some (v.extractLsb' (8 * k) 8) := by
  induction n generalizing k v with
  | zero => omega
  | succ n ih =>
    cases k with
    | zero => rfl
    | succ k =>
      have hlane : (v >>> 8).extractLsb' (8 * k) 8 = v.extractLsb' (8 * (k + 1)) 8 := by
        ext i
        simp [Nat.mul_add, Nat.add_comm, Nat.add_left_comm]
      rw [lanes, List.getElem?_cons_succ, ih _ (Nat.lt_of_succ_lt_succ hk), hlane]

/-- The value of the lowest `n` lanes of a word is its lowest `n` bytes. -/
theorem getLsbD_leWord_lanes (n : Nat) (v : Word) (i : Nat) :
    (leWord (lanes n v)).getLsbD i = (decide (i < 8 * n) && v.getLsbD i) := by
  induction n generalizing v i with
  | zero => simp [lanes, leWord]
  | succ n ih =>
    simp only [lanes, leWord, BitVec.getLsbD_or, BitVec.getLsbD_shiftLeft, ih]
    rcases Nat.lt_or_ge i 8 with hi | hi
    · have hlow : i < 32 ∧ i < 8 * (n + 1) := by omega
      simp [hi, hlow]
    · obtain ⟨j, rfl⟩ := Nat.exists_eq_add_of_le hi
      have hlow : 8 + j < 8 * (n + 1) ↔ j < 8 * n := by omega
      simpa [hlow] using fun _ (hbit : v.getLsbD (8 + j) = true) => BitVec.lt_of_getLsbD hbit

/-- A word with no byte above its lowest `n` is the value of its lowest `n` lanes. -/
theorem leWord_lanes {n : Nat} {v : Word}
    (h : ∀ k < 4, n ≤ k → v.extractLsb' (8 * k) 8 = 0) : leWord (lanes n v) = v := by
  apply BitVec.eq_of_getLsbD_eq
  intro i hi
  rw [getLsbD_leWord_lanes]
  by_cases hlow : i < 8 * n
  · simp [hlow]
  · have hbyte := h (i / 8) (by omega) (by omega)
    have hbit : v.getLsbD i = (v.extractLsb' (8 * (i / 8)) 8).getLsbD (i % 8) := by
      simp [Nat.mod_lt, Nat.div_add_mod]
    simp [hbit, hbyte]

/-! ## Accesses of PBUF (rules R40, R42, R44) -/

theorem inRegisterRegion_of_pbufLegal (h : pbufLegal s off size = true) :
    inRegisterRegion off = false := by
  obtain ⟨hlow, -, -⟩ := pbufLegal_iff.mp h
  exact decide_eq_false (Nat.not_lt.mpr hlow)

theorem hostWrite_pbuf (h : pbufLegal s off size = true) (hb : s.status.busy = false) :
    hostWrite s off size v = .next (State.respond
      { s with mem := s.mem.writeBytes (off.toNat - pbufBase) (lanes size.bytes v) } .ok) := by
  simp [hostWrite, inRegisterRegion_of_pbufLegal h, h, hb]

theorem hostWrite_pbuf_busy (h : pbufLegal s off size = true) (hb : s.status.busy = true) :
    hostWrite s off size v = .next (s.respond .busError) := by
  simp [hostWrite, inRegisterRegion_of_pbufLegal h, hb]

theorem hostRead_pbuf (h : pbufLegal s off size = true) {bs : List Byte}
    (hbs : s.mem.bytes (off.toNat - pbufBase) size.bytes = .ok bs) :
    hostRead s off size = .next (s.respond (.value size (leWord bs))) := by
  simp [hostRead, inRegisterRegion_of_pbufLegal h, h, hbs]

theorem hostRead_pbuf_unwritten (h : pbufLegal s off size = true) {i : Nat}
    (hi : s.mem.bytes (off.toNat - pbufBase) size.bytes = .error i) :
    hostRead s off size = .fault (.unwrittenRead i) := by
  simp [hostRead, inRegisterRegion_of_pbufLegal h, h, hi]

/-- Settles O42: `Memory.writeBytes` of the value's lanes, read back byte by byte. -/
theorem pbufWriteStoresItsByteLanes : Obligations.PbufWriteStoresItsByteLanes := by
  intro s rest off v size hag hlow haligned hinside
  have hlegal : pbufLegal { s with agenda := rest } off size = true :=
    pbufLegal_iff.mpr ⟨hlow, haligned, hinside⟩
  refine ⟨fun hbusy => (step_cons hag).trans (hostWrite_pbuf_busy hlegal hbusy), fun hfree =>
    ⟨_, (step_cons hag).trans (hostWrite_pbuf hlegal hfree), rfl, fun i => ?_⟩⟩
  simp only [respond_mem, Memory.read_writeBytes, lanes_length, pbufBase]
  by_cases hi : off.toNat ≤ 0x1000 + i ∧ 0x1000 + i < off.toNat + size.bytes
  · have hlane : i - (off.toNat - 0x1000) = 0x1000 + i - off.toNat := by omega
    rw [if_pos hi, if_pos (by omega), hlane, getElem?_lanes v (by omega)]
  · rw [if_neg hi, if_neg (by omega)]

theorem busSize_bytes_le (size : BusSize) : size.bytes ≤ 4 := by
  cases size <;> decide

/-- Settles O43: the bytes of a legal read are the lanes of the value it returns. -/
theorem pbufReadIsLittleEndian : Obligations.PbufReadIsLittleEndian := by
  intro s rest off size hag hlow haligned hinside
  have hlegal : pbufLegal { s with agenda := rest } off size = true :=
    pbufLegal_iff.mpr ⟨hlow, haligned, hinside⟩
  have hsize := busSize_bytes_le size
  rw [step_cons hag]
  refine ⟨fun v hv => ?_, fun i hi =>
    hostRead_pbuf_unwritten hlegal (Memory.bytes_error_iff.mpr hi)⟩
  have hbytes : s.mem.bytes (off.toNat - pbufBase) size.bytes = .ok (lanes size.bytes v) := by
    refine Memory.bytes_ok_iff.mpr ⟨lanes_length _ _, fun k hk => ?_⟩
    have hk' : k < size.bytes := hk.trans_eq (lanes_length _ _)
    have hread := hv k (by omega)
    rw [if_pos hk'] at hread
    rw [← List.getElem?_eq_getElem hk, getElem?_lanes v hk']
    exact hread
  have hvalue : leWord (lanes size.bytes v) = v := by
    refine leWord_lanes fun k hk hhigh => ?_
    have hzero := hv k hk
    rwa [if_neg (Nat.not_lt.mpr hhigh)] at hzero
  have hread := hostRead_pbuf hlegal hbytes
  rwa [hvalue] at hread

/-- Settles O44: a read that answers is a `State.respond`. -/
theorem noReadHasASideEffect : Obligations.NoReadHasASideEffect := by
  intro s t rest off size hag h
  rw [step_cons hag] at h
  simp only [perform, hostAccess] at h
  rcases hostRead_cases { s with agenda := rest } off size with ⟨a, e⟩ | ⟨i, e, -⟩ <;> rw [e] at h
  · cases h
    rfl
  · cases h

/-! ## The host while BUSY = 1 (rules R42, R103) -/

/-- `t` differs from `s` at most in OVR, CTRL.IE and the host's answer. -/
def CommandUndisturbed (s t : State) : Prop :=
  t = { s with response := t.response, ie := t.ie, status := { s.status with ovr := t.status.ovr } }

theorem hostWriteReg_busy {r : Reg} (hb : s.status.busy = true)
    (h : hostWriteReg s r v = .next t) : CommandUndisturbed s t := by
  rcases hostWriteReg_cases s r v with
    ⟨-, e⟩ | ⟨-, e, -⟩ | ⟨-, e⟩ | ⟨hfree, -⟩ | ⟨-, e⟩
  · rw [e, cmdWrite, if_pos (by exact hb)] at h
    cases h; rfl
  · rw [e] at h; cases h; rfl
  · rw [e] at h; cases h; rfl
  · exact absurd hb (by simp [hfree])
  · rw [e] at h; cases h; rfl

theorem hostAccess_busy {a : Access} (hb : s.status.busy = true)
    (h : hostAccess s a = .next t) : CommandUndisturbed s t := by
  cases a with
  | read off size =>
    simp only [hostAccess] at h
    rcases hostRead_cases s off size with ⟨a, e⟩ | ⟨i, e, -⟩ <;> rw [e] at h <;> cases h
    rfl
  | write off size v =>
    simp only [hostAccess] at h
    rcases hostWrite_cases s off size v with ⟨r, -, -, e⟩ | e | ⟨hfree, -⟩
    · exact hostWriteReg_busy hb (e ▸ h)
    · rw [e] at h; cases h; rfl
    · exact absurd hb (by simp [hfree])

/-- Settles O45: what `hostAccess_busy` says of the entry taken off the agenda. -/
theorem hostCannotDisturbACommandInProgress :
    Obligations.HostCannotDisturbACommandInProgress := by
  intro s t rest a hag hb h
  rw [step_cons hag] at h
  exact hostAccess_busy (s := { s with agenda := rest }) hb h

end Bus

end Sys2Proof.Machine

/-! # PBUF and the channels under each step (rules R47 to R52) -/

namespace Sys2Proof.Machine

section Channels

variable {s t : State}

/-! ## A silent channel (rule R50) -/

theorem readingStep_silent {onByte : State → Byte → Result} {onEof : State → State}
    (h : s.rx = []) : readingStep onByte onEof s = .next s := by
  simp [readingStep, State.chanRead, h]

theorem writingStep_silent {b : Byte} {onOk : State → State} (h : s.tx = []) :
    writingStep b onOk s = .next s := by
  simp [writingStep, State.chanWrite, h]

theorem sequencerTurn_encHdr (hb : s.status.busy = true) (hq : s.seq = .encHdr) :
    sequencerTurn s = encodeHeader s := by
  rw [sequencerTurn_of_inProgress (i := .encode) hb (by simp only [inProgress, hq])]
  simp [exec, execEncode, hb, hq]

theorem sequencerTurn_encPay (hb : s.status.busy = true) (hq : s.seq = .encPay) :
    sequencerTurn s = encodePayload s := by
  rw [sequencerTurn_of_inProgress (i := .encode) hb (by simp only [inProgress, hq])]
  simp [exec, execEncode, hb, hq]

theorem sequencerTurn_encFtr (hb : s.status.busy = true) (hq : s.seq = .encFtr) :
    sequencerTurn s = encodeFooter s := by
  rw [sequencerTurn_of_inProgress (i := .encode) hb (by simp only [inProgress, hq])]
  simp [exec, execEncode, hb, hq]

/-- The place takes bytes of the input channel (rules R78, R82, R84). -/
abbrev Seq.Reads (q : Seq) : Prop := q = .decHdr ∨ q = .decPay ∨ q = .decFtr

/-- The place offers bytes to the output channel (rules R93 to R95). -/
abbrev Seq.Writes (q : Seq) : Prop := q = .encHdr ∨ q = .encPay ∨ q = .encFtr

theorem sequencerTurn_silent_input (hb : s.status.busy = true) (hrx : s.rx = [])
    (hq : s.seq.Reads) : sequencerTurn s = .next s := by
  rcases hq with hq | hq | hq
  · rw [sequencerTurn_decHdr hb hq, readingStep_silent hrx]
  · rw [sequencerTurn_decPay hb hq, readingStep_silent hrx]
  · rw [sequencerTurn_decFtr hb hq, readingStep_silent hrx]

/-- The invariant says that each writing place has a byte to offer (rules R92 to R95). -/
theorem sequencerTurn_silent_output (h : Inv s) (hb : s.status.busy = true) (htx : s.tx = [])
    (hq : s.seq.Writes) : sequencerTurn s = .next s := by
  rcases hq with hq | hq | hq
  · obtain ⟨-, hcnt, -⟩ := (seqInv_encHdr hq).mp h.place
    rw [sequencerTurn_encHdr hb hq, encodeHeader, Vector.getElem?_eq_getElem hcnt]
    exact writingStep_silent htx
  · obtain ⟨-, -, -, hlt, -, hcap, -, p, hplen, hholds, -⟩ := (seqInv_encPay hq).mp h.place
    have hread : s.mem.read s.payCnt.toNat = _ := hholds ⟨s.payCnt.toNat, hplen ▸ hlt⟩
    rw [sequencerTurn_encPay hb hq, encodePayload, if_pos (hlt.trans_le hcap), hread]
    exact writingStep_silent htx
  · obtain ⟨-, -, hcnt, -⟩ := (seqInv_encFtr hq).mp h.place
    rw [sequencerTurn_encFtr hb hq, encodeFooter, Vector.getElem?_eq_getElem hcnt]
    exact writingStep_silent htx

/-- Turns of the sequencer that change nothing only take their entries off the agenda. -/
theorem run_idle_turns {rest : List Event} (n : Nat)
    (hturn : ∀ ag, sequencerTurn { s with agenda := ag } = .next { s with agenda := ag })
    (hag : s.agenda = List.replicate n .sequencer ++ rest) :
    run n s = .next { s with agenda := rest } := by
  induction n generalizing s with
  | zero =>
    cases hag
    rfl
  | succ n ih =>
    rw [List.replicate_succ, List.cons_append] at hag
    rw [run_succ_of_next n ((step_cons hag).trans (hturn _))]
    exact ih (s := { s with agenda := List.replicate n .sequencer ++ rest }) hturn rfl

/-- Settles O37: each turn of a waiting command changes nothing. -/
theorem silentChannelLeavesTheCommandWaiting :
    Obligations.SilentChannelLeavesTheCommandWaiting := by
  intro n s rest h hag hsilent
  have hb : s.status.busy = true := by
    refine h.busy_iff.mpr fun hidle => ?_
    simp [hidle] at hsilent
  refine ⟨hb, run_idle_turns n (fun ag => ?_) hag⟩
  rcases hsilent with ⟨hrx, hq⟩ | ⟨htx, hq⟩
  · exact sequencerTurn_silent_input hb hrx hq
  · exact sequencerTurn_silent_output (h.outside ag s.rx s.tx s.sent s.response) hb htx hq

/-! ## What a command's step does to PBUF and the channels (rules R47 to R52) -/

/-- PBUF and both channels. -/
def State.store (s : State) : Memory × List ReadAnswer × List WriteAnswer × List Byte :=
  (s.mem, s.rx, s.tx, s.sent)

theorem store_eq_iff : t.store = s.store ↔
    t.mem = s.mem ∧ t.rx = s.rx ∧ t.tx = s.tx ∧ t.sent = s.sent := by
  simp only [State.store, Prod.mk.injEq]

/-- All that a step of a command from `s` to `t` may do to PBUF and the channels: a reading place
takes one answer that is no Eof, and in DEC_PAY stores a byte at PAY_CNT; a writing place takes one
answer, and where it is Ok commits a byte. -/
structure Transfers (s t : State) : Prop where
  mem : t.mem = s.mem ∨
    (s.status.busy = true ∧ s.seq = .decPay ∧ ∃ b, t.mem = s.mem.write s.payCnt.toNat b)
  rx : t.rx = s.rx ∨
    (s.status.busy = true ∧ s.seq.Reads ∧ ∃ a, s.rx = a :: t.rx ∧ a ≠ .eof)
  tx : t.tx = s.tx ∨
    (s.status.busy = true ∧ s.seq.Writes ∧ ∃ a, s.tx = a :: t.tx)
  sent : t.sent = s.sent ∨
    (s.status.busy = true ∧ s.seq.Writes ∧ s.tx = .ok :: t.tx ∧ ∃ b, t.sent = s.sent ++ [b])

theorem transfers_nothing (h : t.store = s.store) : Transfers s t := by
  obtain ⟨hmem, hrx, htx, hsent⟩ := store_eq_iff.mp h
  exact ⟨.inl hmem, .inl hrx, .inl htx, .inl hsent⟩

theorem transfers_consumed {a : ReadAnswer} {r : List ReadAnswer} (hb : s.status.busy = true)
    (hq : s.seq.Reads) (hrx : s.rx = a :: r) (ha : a ≠ .eof)
    (h : t.store = { s with rx := r }.store) : Transfers s t := by
  obtain ⟨hmem, rfl, htx, hsent⟩ := store_eq_iff.mp h
  exact ⟨.inl hmem, .inr ⟨hb, hq, a, hrx, ha⟩, .inl htx, .inl hsent⟩

theorem transfers_payload {b : Byte} {r : List ReadAnswer} (hb : s.status.busy = true)
    (hq : s.seq = .decPay) (hrx : s.rx = .byte b :: r)
    (h : t.store = { s with rx := r, mem := s.mem.write s.payCnt.toNat b }.store) :
    Transfers s t := by
  obtain ⟨hmem, rfl, htx, hsent⟩ := store_eq_iff.mp h
  exact ⟨.inr ⟨hb, hq, b, hmem⟩, .inr ⟨hb, .inr (.inl hq), _, hrx, ReadAnswer.noConfusion⟩,
    .inl htx, .inl hsent⟩

theorem transfers_committed {b : Byte} {r : List WriteAnswer} (hb : s.status.busy = true)
    (hq : s.seq.Writes) (htx : s.tx = .ok :: r)
    (h : t.store = { s with tx := r, sent := s.sent ++ [b] }.store) : Transfers s t := by
  obtain ⟨hmem, hrx, rfl, hsent⟩ := store_eq_iff.mp h
  exact ⟨.inl hmem, .inl hrx, .inr ⟨hb, hq, .ok, htx⟩, .inr ⟨hb, hq, htx, b, hsent⟩⟩

/-! ### DECODE -/

theorem capacityCheck_store (s : State) : (capacityCheck s).store = s.store := by
  unfold capacityCheck
  split <;> rfl

theorem lengthCheck_store (s : State) : (lengthCheck s).store = s.store := by
  unfold lengthCheck
  split
  · exact capacityCheck_store (compareLength s)
  · rfl

theorem dataCheck_store (s : State) : (dataCheck s).store = s.store := by
  unfold dataCheck
  split <;> rfl

theorem footerEof_store (s : State) : (footerEof s).store = s.store := by
  unfold footerEof
  split
  · rfl
  · exact dataCheck_store s

theorem headerByte_store {b : Byte} (h : headerByte s b = .next t) : t.store = s.store := by
  unfold headerByte headerStored at h
  split at h <;> cases h
  split
  · exact lengthCheck_store _
  · rfl

theorem payloadByte_store {b : Byte} (h : payloadByte s b = .next t) :
    t.store = { s with mem := s.mem.write s.payCnt.toNat b }.store := by
  unfold payloadByte payloadStored at h
  split at h <;> cases h
  split <;> rfl

theorem footerByte_store {b : Byte} (h : footerByte s b = .next t) : t.store = s.store := by
  unfold footerByte footerStored at h
  split at h <;> cases h
  split
  · exact dataCheck_store _
  · rfl

theorem execDecode_transfers (h : execDecode s = .next t) : Transfers s t := by
  rcases execDecode_cases s with ⟨-, e⟩ | ⟨-, -, -, -, e⟩ |
    ⟨hb, hq, ⟨-, e⟩ | ⟨r, hrx, e⟩ | ⟨r, -, ⟨-, e⟩ | ⟨-, e⟩ | ⟨-, e⟩⟩ |
      ⟨b, r, hrx, ⟨-, e⟩ | ⟨hpay, e⟩ | ⟨-, e⟩⟩⟩ <;> rw [e] at h
  · cases h; exact transfers_nothing rfl
  · cases h; exact transfers_nothing rfl
  · cases h; exact transfers_nothing rfl
  · cases h; exact transfers_consumed hb hq hrx ReadAnswer.noConfusion rfl
  · cases h; exact transfers_nothing rfl
  · cases h; exact transfers_nothing rfl
  · cases h; exact transfers_nothing (footerEof_store s)
  · exact transfers_consumed hb hq hrx ReadAnswer.noConfusion (headerByte_store h)
  · exact transfers_payload hb hpay hrx (payloadByte_store h)
  · exact transfers_consumed hb hq hrx ReadAnswer.noConfusion (footerByte_store h)

/-! ### ENCODE -/

theorem writingStep_transfers {b : Byte} {onOk : State → State} (hb : s.status.busy = true)
    (hq : s.seq.Writes) (hok : ∀ u, (onOk u).store = u.store)
    (h : writingStep b onOk s = .next t) : Transfers s t := by
  rcases writingStep_cases b onOk s with ⟨-, e⟩ | ⟨r, htx, e⟩ | ⟨r, htx, e⟩ <;> rw [e] at h <;>
    cases h
  · exact transfers_nothing rfl
  · exact transfers_committed hb hq htx (hok _)
  · exact ⟨.inl rfl, .inl rfl, .inr ⟨hb, hq, .fail, htx⟩, .inl rfl⟩

theorem headerSent_store (s : State) : (headerSent s).store = s.store := by
  unfold headerSent
  split <;> rfl

theorem payloadSent_store (s : State) : (payloadSent s).store = s.store := by
  unfold payloadSent
  split <;> rfl

theorem footerSent_store (s : State) : (footerSent s).store = s.store := by
  unfold footerSent
  split <;> rfl

theorem encodeStart_store (h : encodeStart s = .next t) : t.store = s.store := by
  rcases encodeStart_cases s with ⟨-, e⟩ | ⟨-, i, -, e⟩ | ⟨-, p, -, e⟩ <;> rw [e] at h <;> cases h
  · rfl
  · rfl

theorem encodeHeader_transfers (hb : s.status.busy = true) (hq : s.seq = .encHdr)
    (h : encodeHeader s = .next t) : Transfers s t := by
  unfold encodeHeader at h
  split at h
  · cases h
  · exact writingStep_transfers hb (.inl hq) (fun u => headerSent_store u.countHdr) h

theorem encodePayload_transfers (hb : s.status.busy = true) (hq : s.seq = .encPay)
    (h : encodePayload s = .next t) : Transfers s t := by
  unfold encodePayload at h
  split at h
  · split at h
    · cases h
    · exact writingStep_transfers hb (.inr (.inl hq)) (fun u => payloadSent_store u.countPay) h
  · cases h

theorem encodeFooter_transfers (hb : s.status.busy = true) (hq : s.seq = .encFtr)
    (h : encodeFooter s = .next t) : Transfers s t := by
  unfold encodeFooter at h
  split at h
  · cases h
  · exact writingStep_transfers hb (.inr (.inr hq)) (fun u => footerSent_store u.countFtr) h

theorem execEncode_transfers (h : execEncode s = .next t) : Transfers s t := by
  rcases execEncode_cases s with ⟨-, e⟩ | ⟨-, -, -, -, -, e⟩ |
    ⟨hb, ⟨-, e⟩ | ⟨hq, e⟩ | ⟨hq, e⟩ | ⟨hq, e⟩⟩ <;> rw [e] at h
  · cases h; exact transfers_nothing rfl
  · cases h; exact transfers_nothing rfl
  · exact transfers_nothing (encodeStart_store h)
  · exact encodeHeader_transfers hb hq h
  · exact encodePayload_transfers hb hq h
  · exact encodeFooter_transfers hb hq h

/-! ### Every command and the sequencer's turn -/

theorem crc32cStep_store (h : crc32cStep s = .next t) : t.store = s.store := by
  unfold crc32cStep at h
  split at h
  · cases h; rfl
  · split at h <;> cases h
    rfl

theorem oneStep_store {i : Instr} {effect : State → Result}
    (heff : effect s = .next t → t.store = s.store) (h : oneStep i effect s = .next t) :
    t.store = s.store := by
  rcases oneStep_cases i effect s with ⟨-, e⟩ | ⟨-, -, -, e⟩ | ⟨-, -, e⟩ <;> rw [e] at h
  · cases h; rfl
  · exact heff h
  · cases h; rfl

theorem exec_transfers {i : Instr} (h : exec i s = .next t) : Transfers s t := by
  cases i
  case crc32c => exact transfers_nothing (oneStep_store crc32cStep_store h)
  case decode => exact execDecode_transfers h
  case encode => exact execEncode_transfers h
  all_goals exact transfers_nothing (oneStep_store (fun e => by cases e; rfl) h)

theorem sequencerTurn_transfers (h : sequencerTurn s = .next t) : Transfers s t := by
  rcases sequencerTurn_cases s with ⟨-, e⟩ | ⟨-, i, -, e⟩ | ⟨-, -, e⟩ <;> rw [e] at h
  · cases h; exact transfers_nothing rfl
  · exact exec_transfers h
  · cases h

/-! ## What the host does to them (rules R42, R52) -/

/-- A CMD write, issued, illegal or dropped, leaves PBUF and the channels alone. -/
theorem cmdWrite_store {w : Word} (h : cmdWrite s w = .next t) : t.store = s.store := by
  rcases cmdWrite_cases s w with ⟨-, e⟩ | ⟨hfree, i, -, e⟩ | ⟨-, _, -, e⟩ <;> rw [e] at h
  · cases h; rfl
  · rw [exec_issue i s hfree] at h
    cases h
    cases i <;> rfl
  · cases h; rfl

theorem hostWriteReg_store {r : Reg} {v : Word} (h : hostWriteReg s r v = .next t) :
    t.store = s.store := by
  rcases hostWriteReg_cases s r v with
    ⟨-, e⟩ | ⟨-, e, -⟩ | ⟨-, e⟩ | ⟨-, l, c, e, -⟩ | ⟨-, e⟩ <;> rw [e] at h
  · exact cmdWrite_store (s := s.respond .ok) h
  all_goals
    cases h
    rfl

/-- The host reaches PBUF by a legal write while BUSY = 0, and no channel (rules R40, R42). -/
theorem hostAccess_store {a : Access} (h : hostAccess s a = .next t) :
    t.store = s.store ∨
    (s.status.busy = false ∧ ∃ off size v, a = .write off size v ∧ pbufLegal s off size = true ∧
      t.store = { s with
        mem := s.mem.writeBytes (off.toNat - pbufBase) (lanes size.bytes v) }.store) := by
  cases a with
  | read off size =>
    simp only [hostAccess] at h
    rcases hostRead_cases s off size with ⟨a, e⟩ | ⟨i, e, -⟩ <;> rw [e] at h <;> cases h
    exact .inl rfl
  | write off size v =>
    simp only [hostAccess] at h
    rcases hostWrite_cases s off size v with ⟨r, -, -, e⟩ | e | ⟨hfree, hlegal, e⟩ <;> rw [e] at h
    · exact .inl (hostWriteReg_store h)
    · cases h; exact .inl rfl
    · cases h; exact .inr ⟨hfree, off, size, v, rfl, hlegal, rfl⟩

/-- No access of the host moves a channel (rule R47). -/
theorem hostAccess_channels {a : Access} (h : hostAccess s a = .next t) :
    t.rx = s.rx ∧ t.tx = s.tx ∧ t.sent = s.sent := by
  rcases hostAccess_store h with hk | ⟨-, off, size, v, -, -, hk⟩ <;>
    obtain ⟨-, hchannels⟩ := store_eq_iff.mp hk <;> exact hchannels

/-- A PBUF byte that a command's step changed is the one at PAY_CNT (rule R82). -/
theorem Transfers.changed_byte (h : Transfers s t) {i : Nat} (hi : t.mem.read i ≠ s.mem.read i) :
    s.status.busy = true ∧ s.seq = .decPay ∧ i = s.payCnt.toNat := by
  rcases h.mem with hmem | ⟨hb, hq, b, hmem⟩ <;> rw [hmem] at hi
  · exact absurd rfl hi
  · refine ⟨hb, hq, ?_⟩
    by_contra hne
    exact hi (Memory.read_write_other s.mem b (Ne.symm hne))

/-- A PBUF byte that the host changed is one its write names, while BUSY = 0 (rules R40, R42). -/
theorem hostAccess_changed_byte {a : Access} {i : Nat} (h : hostAccess s a = .next t)
    (hi : t.mem.read i ≠ s.mem.read i) :
    s.status.busy = false ∧ ∃ off size v, a = .write off size v ∧
      off.toNat ≤ 0x1000 + i ∧ 0x1000 + i < off.toNat + size.bytes := by
  rcases hostAccess_store h with hk | ⟨hfree, off, size, v, rfl, hlegal, hk⟩ <;>
    obtain ⟨hmem, -⟩ := store_eq_iff.mp hk <;> rw [hmem] at hi
  · exact absurd rfl hi
  · refine ⟨hfree, off, size, v, rfl, ?_⟩
    obtain ⟨hlow, -, -⟩ := pbufLegal_iff.mp hlegal
    simp only [Memory.read_writeBytes, lanes_length, pbufBase] at hi hlow
    by_contra hout
    exact hi (if_neg (by omega))

/-- Settles O53: by the agent that moves. -/
theorem pbufChangesOnlyByHostWriteOrDecode : Obligations.PbufChangesOnlyByHostWriteOrDecode := by
  intro s t i h hi
  rcases step_cases s with ⟨hag, e⟩ | ⟨ev, rest, hag, e⟩ <;> rw [e] at h
  · obtain ⟨hb, hq, hpay⟩ := (sequencerTurn_transfers h).changed_byte hi
    exact .inr ⟨hb, hq, hpay, .inl hag⟩
  · cases ev with
    | host a =>
      obtain ⟨hfree, off, size, v, rfl, hrange⟩ := hostAccess_changed_byte h hi
      exact .inl ⟨hfree, off, size, v, rest, hag, hrange⟩
    | sequencer =>
      obtain ⟨hb, hq, hpay⟩ := (sequencerTurn_transfers h).changed_byte hi
      exact .inr ⟨hb, hq, hpay, .inr ⟨rest, hag⟩⟩
    | reset | connectInput | connectOutput =>
      cases h
      exact absurd rfl hi

/-- Settles O54: the connect entries by their meaning, the other agents by what they transfer. -/
theorem channelsMoveOneByteAStepInOrder : Obligations.ChannelsMoveOneByteAStepInOrder := by
  refine ⟨fun s answers rest hag => step_cons hag, fun s answers rest hag => step_cons hag,
    fun s t h => ?_⟩
  rcases step_cases s with ⟨hag, e⟩ | ⟨ev, rest, hag, e⟩ <;> rw [e] at h
  · have ht := sequencerTurn_transfers h
    exact ⟨ht.rx.imp_right .inr, ht.tx.imp_right .inr, ht.sent⟩
  · cases ev with
    | host a =>
      obtain ⟨hrx, htx, hsent⟩ := hostAccess_channels h
      exact ⟨.inl hrx, .inl htx, .inl hsent⟩
    | sequencer =>
      have ht := sequencerTurn_transfers h
      exact ⟨ht.rx.imp_right .inr, ht.tx.imp_right .inr, ht.sent⟩
    | reset =>
      cases h
      exact ⟨.inl rfl, .inl rfl, .inl rfl⟩
    | connectInput answers =>
      cases h
      exact ⟨.inr (.inl ⟨rest, hag⟩), .inl rfl, .inl rfl⟩
    | connectOutput answers =>
      cases h
      exact ⟨.inl rfl, .inr (.inl ⟨rest, hag⟩), .inl rfl⟩

end Channels

end Sys2Proof.Machine

/-! # Command words (rules R57, R59, R60) -/

namespace Sys2Proof.Machine

section CommandWords

variable {w : Word} {i : Instr}

/-! ## Opcodes (rule R59) -/

theorem opcode_range (i : Instr) : 1 ≤ (opcode i).toNat ∧ (opcode i).toNat ≤ 7 := by
  cases i <;> decide

theorem eq_opcode_of_decodeOpcode {o : Byte} (h : decodeOpcode o = some i) : o = opcode i := by
  unfold decodeOpcode at h
  split_ifs at h <;> cases h <;> assumption

theorem unassigned_of_decodeOpcode {o : Byte} (h : decodeOpcode o = none) :
    o.toNat = 0 ∨ 8 ≤ o.toNat := by
  unfold decodeOpcode at h
  split_ifs at h
  bv_omega

/-! ## Words (rules R57, R60) -/

/-- A word is rejected for its RSVD, selects the command its OPC names, or has an unassigned OPC. -/
theorem decodeWord_cases (w : Word) :
    (w.extractLsb' 8 24 ≠ 0#24 ∧ decodeWord w = .illegal .reservedFieldNotZero) ∨
    (w.extractLsb' 8 24 = 0#24 ∧
      ∃ i, w.extractLsb' 0 8 = opcode i ∧ decodeWord w = .command i) ∨
    (w.extractLsb' 8 24 = 0#24 ∧
      ((w.extractLsb' 0 8).toNat = 0 ∨ 8 ≤ (w.extractLsb' 0 8).toNat) ∧
      decodeWord w = .illegal (.unassignedOpcode (w.extractLsb' 0 8))) := by
  by_cases hr : w.extractLsb' 8 24 = 0#24
  · refine .inr ?_
    rw [decodeWord, if_pos hr]
    cases ho : decodeOpcode (w.extractLsb' 0 8) with
    | some i => exact .inl ⟨hr, i, eq_opcode_of_decodeOpcode ho, rfl⟩
    | none => exact .inr ⟨hr, unassigned_of_decodeOpcode ho, rfl⟩
  · exact .inl ⟨hr, if_neg hr⟩

theorem eq_encodeWord_of_fields (hr : w.extractLsb' 8 24 = 0#24)
    (ho : w.extractLsb' 0 8 = opcode i) : w = encodeWord i := by
  rw [encodeWord, ← ho, ← hr]
  exact (BitVec.extractLsb'_append_extractLsb' (w := 24) (len := 8)).symm

@[simp] theorem decodeWord_encodeWord (i : Instr) : decodeWord (encodeWord i) = .command i := by
  cases i <;> rfl

theorem decodeWord_eq_command_iff : decodeWord w = .command i ↔ w = encodeWord i := by
  refine ⟨fun h => ?_, fun h => h ▸ decodeWord_encodeWord i⟩
  rcases decodeWord_cases w with ⟨-, e⟩ | ⟨hr, j, ho, e⟩ | ⟨-, -, e⟩ <;> cases e.symm.trans h
  exact eq_encodeWord_of_fields hr ho

/-! ## Byte lanes (rule R36) -/

theorem append_eq_append_iff {m n : Nat} {a c : BitVec m} {b d : BitVec n} :
    a ++ b = c ++ d ↔ a = c ∧ b = d := by
  refine ⟨fun h => ⟨?_, ?_⟩, fun ⟨hac, hbd⟩ => hac ▸ hbd ▸ rfl⟩
  · simpa only [BitVec.extractLsb'_append_eq_left] using congrArg (·.extractLsb' n m) h
  · simpa only [BitVec.extractLsb'_append_eq_right] using congrArg (·.extractLsb' 0 n) h

theorem lanes_eq_encodeWord_iff {b0 b1 b2 b3 : Byte} :
    b3 ++ b2 ++ b1 ++ b0 = encodeWord i ↔
      ((b3 = 0#8 ∧ b2 = 0#8) ∧ b1 = 0#8) ∧ b0 = opcode i := by
  have hlanes : encodeWord i = 0#8 ++ 0#8 ++ 0#8 ++ opcode i := by cases i <;> rfl
  rw [hlanes]
  exact append_eq_append_iff.trans (and_congr_left'
    (append_eq_append_iff.trans (and_congr_left' append_eq_append_iff)))

theorem decode_eq_command_iff {bs : List Byte} : decode bs = .command i ↔ bs = encode i := by
  unfold decode
  split
  · rw [decodeWord_eq_command_iff, lanes_eq_encodeWord_iff]
    simp only [encode, List.cons.injEq, and_true]
    tauto
  · next hne =>
    refine ⟨fun h => (by cases h), ?_⟩
    rintro rfl
    exact absurd rfl (hne _ _ _ _)

end CommandWords

/-- Settles O1: each word of the map evaluates to its command's encoded word, and the round trips are those
of `decodeWord_encodeWord` and `decode_eq_command_iff`. -/
theorem commandWordsDecodeByTheOpcodeMap : Obligations.CommandWordsDecodeByTheOpcodeMap :=
  ⟨decodeWord_encodeWord .crc32c, decodeWord_encodeWord .mask, decodeWord_encodeWord .lenenc,
    decodeWord_encodeWord .hdrasm, decodeWord_encodeWord .reclen, decodeWord_encodeWord .decode,
    decodeWord_encodeWord .encode, by decide, by decide, by decide,
    fun i => ⟨decodeWord_encodeWord i, decode_eq_command_iff.mpr rfl⟩⟩

/-- Settles O2: a word's three cases, and the lanes of the one word of each command. -/
theorem decoderAcceptsExactlyTheSevenWords : Obligations.DecoderAcceptsExactlyTheSevenWords := by
  refine ⟨fun w => ?_, fun w i => decodeWord_eq_command_iff, fun bs i => decode_eq_command_iff⟩
  rcases decodeWord_cases w with ⟨hr, e⟩ | ⟨hr, i, ho, e⟩ | ⟨hr, ho, e⟩ <;> rw [e]
  · exact ⟨fun ⟨i, h⟩ => (by cases h), fun ⟨h, _⟩ => absurd h hr⟩
  · rw [ho]
    exact ⟨fun _ => ⟨hr, opcode_range i⟩, fun _ => ⟨i, rfl⟩⟩
  · exact ⟨fun ⟨i, h⟩ => (by cases h), fun ⟨_, hlow, hhigh⟩ => (by omega)⟩

/-- Settles O3: the two rejecting cases of a word. -/
theorem decoderRejectsEveryOtherWordByName : Obligations.DecoderRejectsEveryOtherWordByName := by
  intro w
  rcases decodeWord_cases w with ⟨hr, e⟩ | ⟨hr, i, ho, e⟩ | ⟨hr, ho, e⟩ <;> rw [e]
  · exact ⟨⟨fun _ => hr, fun _ => rfl⟩,
      fun o => ⟨fun h => (by cases h), fun ⟨h, _⟩ => absurd h hr⟩⟩
  · refine ⟨⟨fun h => (by cases h), fun h => absurd hr h⟩, fun o => ⟨fun h => (by cases h), ?_⟩⟩
    rintro ⟨-, rfl, hout⟩
    have hrange := opcode_range i
    rw [ho] at hout
    omega
  · refine ⟨⟨fun h => (by cases h), fun h => absurd hr h⟩, fun o => ⟨fun h => ?_, ?_⟩⟩
    · cases h
      exact ⟨hr, rfl, ho⟩
    · rintro ⟨-, rfl, -⟩
      rfl

end Sys2Proof.Machine

/-! # The wait of a host program (rules R62, R120) -/

namespace Sys2Proof.Machine

section Wait

variable {s t : State} {us : List Turn} {op : HostOp} {ops : List HostOp} {e : Event}

/-! ## One turn of a program at its wait -/

/-- A poll on a free machine ends its wait (rule R62). -/
theorem runOps_poll_free (hb : s.status.busy = false) :
    runOps (.program :: us) s (.poll :: ops) =
      runOps us (s.respond (.value .b4 s.status.word)) ops := by
  rw [runOps_turn (takeTurn_poll s ops), hb, if_neg Bool.false_ne_true]

/-- A poll on a busy machine is repeated (rule R62). -/
theorem runOps_poll_busy (hb : s.status.busy = true) :
    runOps (.program :: us) s (.poll :: ops) =
      runOps us (s.respond (.value .b4 s.status.word)) (.poll :: ops) := by
  rw [runOps_turn (takeTurn_poll s ops), if_pos hb]

/-- Another agent's turn leaves the program where it stands (rule R13). -/
theorem runOps_other (h : perform e s = .next t) :
    runOps (.other e :: us) s (op :: ops) = runOps us t (op :: ops) :=
  runOps_turn (by simp only [takeTurn, h])

/-- A program ends only where no other agent's turn stopped the machine. -/
theorem perform_next_of_ended (h : runOps (.other e :: us) s (op :: ops) = .ended t) :
    ∃ v, perform e s = .next v ∧ runOps us v (op :: ops) = .ended t := by
  cases hp : perform e s with
  | next v => exact ⟨v, rfl, runOps_other hp ▸ h⟩
  | fault f => simp [runOps, takeTurn, hp] at h
  | refused r => simp [runOps, takeTurn, hp] at h

/-! ## A wait that ends -/

/-- A wait that ends read BUSY = 0, and that STATUS is the host's last answer (rule R62). -/
theorem runOps_wait_ended (h : runOps us s [.poll] = .ended t) :
    t.status.busy = false ∧ t.response = some (.value .b4 t.status.word) := by
  induction us generalizing s with
  | nil => cases h
  | cons u us ih =>
    cases u with
    | program =>
      cases hb : s.status.busy with
      | false =>
        rw [runOps_poll_free hb, runOps_nil] at h
        cases h
        exact ⟨hb, rfl⟩
      | true => exact ih (runOps_poll_busy hb ▸ h)
    | other e =>
      obtain ⟨v, -, hv⟩ := perform_next_of_ended h
      exact ih hv

/-! ## A wait on a silent channel (rules R50, R120) -/

/-- The command in progress needs a channel that has no answer. -/
def State.AwaitsChannel (s : State) : Prop :=
  (s.rx = [] ∧ s.seq.Reads) ∨ (s.tx = [] ∧ s.seq.Writes)

theorem Inv.busy_of_awaitsChannel (h : Inv s) (hw : s.AwaitsChannel) : s.status.busy = true := by
  refine h.busy_iff.mpr fun hidle => ?_
  simp [State.AwaitsChannel, Seq.Reads, Seq.Writes, hidle] at hw

theorem sequencerTurn_awaitsChannel (h : Inv s) (hw : s.AwaitsChannel) :
    sequencerTurn s = .next s := by
  have hb := h.busy_of_awaitsChannel hw
  rcases hw with ⟨hrx, hq⟩ | ⟨htx, hq⟩
  · exact sequencerTurn_silent_input hb hrx hq
  · exact sequencerTurn_silent_output h hb htx hq

/-- Polls and the sequencer's turns leave a program at its wait. -/
theorem runOps_wait_running (h : Inv s) (hw : s.AwaitsChannel)
    (hus : ∀ u ∈ us, u = .program ∨ u = .other .sequencer) :
    ∃ a, runOps us s (.poll :: ops) = .running { s with response := a } (.poll :: ops) := by
  induction us generalizing s with
  | nil => exact ⟨s.response, rfl⟩
  | cons u us ih =>
    obtain ⟨hu, hrest⟩ := List.forall_mem_cons.mp hus
    rcases hu with rfl | rfl
    · rw [runOps_poll_busy (h.busy_of_awaitsChannel hw)]
      exact ih (h.respond _) hw hrest
    · have hturn : perform .sequencer s = .next s := sequencerTurn_awaitsChannel h hw
      rw [runOps_other hturn]
      exact ih h hw hrest

end Wait

/-- Settles O60: a wait is one poll, and each clause is about its turns. -/
theorem waitEndsOnlyOnAPollThatReadsBusyClear :
    Obligations.WaitEndsOnlyOnAPollThatReadsBusyClear := by
  refine ⟨fun us s t h => runOps_wait_ended h, fun us s hb => ?_, fun us s lines h hus hw => ?_⟩
  · exact (runOps_poll_free hb).trans (runOps_nil us _)
  · obtain ⟨a, ha⟩ := runOps_wait_running (ops := lines.flatMap expand) h hw hus
    exact ⟨_, ha, rfl, h.busy_of_awaitsChannel hw⟩

end Sys2Proof.Machine

/-! # The checksum engine (rules R63 to R69) -/

namespace Sys2Proof.Machine

section Checksum

variable {p q : List Byte} {b c : Byte}

/-! ## The CRC32C register (rules R64, R65) -/

theorem eq_of_ushiftRight_one {w : Nat} {x y : BitVec w} (hlow : x.getLsbD 0 = y.getLsbD 0)
    (hhigh : x >>> 1 = y >>> 1) : x = y := by
  refine BitVec.eq_of_getLsbD_eq fun i _ => ?_
  cases i with
  | zero => exact hlow
  | succ i =>
    have hbit := congrArg (·.getLsbD i) hhigh
    simpa only [BitVec.getLsbD_ushiftRight, Nat.add_comm 1] using hbit

/-- The bit shifted out comes back as the top bit, because the reflected polynomial has it set. -/
theorem crcBit_msb (x : Word) : (crcBit x).msb = x.getLsbD 0 := by
  have htop : (x >>> 1).msb = false := by rw [BitVec.msb_ushiftRight]; rfl
  unfold crcBit
  split
  · next h => rw [BitVec.msb_xor, htop, h]; rfl
  · next h => rw [htop, Bool.eq_false_iff.mpr h]

theorem crcBit_injective : Function.Injective crcBit := by
  intro x y h
  have hlow : x.getLsbD 0 = y.getLsbD 0 := by rw [← crcBit_msb, ← crcBit_msb, h]
  refine eq_of_ushiftRight_one hlow ?_
  unfold crcBit at h
  rw [hlow] at h
  split at h
  · exact (BitVec.xor_left_inj _).mp h
  · exact h

theorem repeat_injective {α : Type} {f : α → α} (hf : Function.Injective f) (n : Nat) :
    Function.Injective (Nat.repeat f n) := by
  induction n with
  | zero => exact Function.injective_id
  | succ n ih => exact hf.comp ih

/-- A step mixes the register and the byte before anything else (rule R64). -/
theorem crcStep_eq_crcStep_iff {x y : Word} :
    crcStep x b = crcStep y c ↔ x ^^^ b.setWidth 32 = y ^^^ c.setWidth 32 :=
  (repeat_injective crcBit_injective 8).eq_iff

theorem crcStep_left_inj {x y : Word} : crcStep x b = crcStep y b ↔ x = y :=
  crcStep_eq_crcStep_iff.trans (BitVec.xor_left_inj _)

theorem crcStep_right_inj {x : Word} : crcStep x b = crcStep x c ↔ b = c := by
  rw [crcStep_eq_crcStep_iff, BitVec.xor_right_inj]
  refine ⟨fun h => ?_, congrArg _⟩
  simpa using congrArg (·.setWidth 8) h

theorem foldl_crcStep_inj {x y : Word} : q.foldl crcStep x = q.foldl crcStep y ↔ x = y := by
  induction q generalizing x y with
  | nil => exact Iff.rfl
  | cons b q ih => exact ih.trans crcStep_left_inj

theorem crc32c_append_cons_inj : crc32c (p ++ b :: q) = crc32c (p ++ c :: q) ↔ b = c := by
  simp only [crc32c, crcFold, List.foldl_append, List.foldl_cons, BitVec.xor_left_inj,
    foldl_crcStep_inj, crcStep_right_inj]

/-! ## Masking (rules R66, R67) -/

/-- The rotation exchanges the high 17 and the low 15 bits. -/
theorem rotr15_append (x : BitVec 17) (y : BitVec 15) : rotr15 (x ++ y) = y ++ x := by
  refine BitVec.eq_of_getLsbD_eq fun i hi => ?_
  simp only [rotr15, BitVec.getLsbD_or, BitVec.getLsbD_ushiftRight, BitVec.getLsbD_shiftLeft,
    BitVec.getLsbD_append]
  by_cases h : i < 17
  · simp [h]
  · have hy : ¬15 ≤ i - 17 := by omega
    simp [h, hi, hy, BitVec.getLsbD_of_ge x i (Nat.le_of_not_lt h)]

theorem rotr15_eq_append (c : Word) : rotr15 c = c.extractLsb' 0 15 ++ c.extractLsb' 15 17 := by
  rw [← rotr15_append]
  exact congrArg rotr15 (BitVec.extractLsb'_append_extractLsb' (w := 17) (len := 15)).symm

theorem rotr15_injective : Function.Injective rotr15 := by
  intro c d h
  rw [rotr15_eq_append, rotr15_eq_append, append_eq_append_iff] at h
  obtain ⟨hlow, hhigh⟩ := h
  calc c = c.extractLsb' 15 17 ++ c.extractLsb' 0 15 :=
        (BitVec.extractLsb'_append_extractLsb' (w := 17) (len := 15)).symm
    _ = d.extractLsb' 15 17 ++ d.extractLsb' 0 15 := by rw [hlow, hhigh]
    _ = d := BitVec.extractLsb'_append_extractLsb' (w := 17) (len := 15)

theorem mask_inj {c d : Word} : mask c = mask d ↔ c = d :=
  (BitVec.add_left_inj _).trans rotr15_injective.eq_iff

/-- The inverse of rule R67: the offset taken off, then the rotation undone. -/
theorem mask_unmask (m : Word) :
    mask (let v := m - 0xA282EAD8#32; v.extractLsb' 0 17 ++ v.extractLsb' 17 15) = m := by
  have hrot (v : Word) : rotr15 (v.extractLsb' 0 17 ++ v.extractLsb' 17 15) = v :=
    (rotr15_append _ _).trans (BitVec.extractLsb'_append_extractLsb' (w := 15) (len := 17))
  rw [mask, hrot, BitVec.sub_add_cancel]

/-- The masking stage as exact arithmetic (rule R69). -/
theorem mask_toNat (c : Word) : (mask c).toNat =
    (c.toNat / 2 ^ 15 + c.toNat % 2 ^ 15 * 2 ^ 17 + 0xA282EAD8) % 2 ^ 32 := by
  have hhigh : c.toNat / 2 ^ 15 < 2 ^ 17 := Nat.div_lt_of_lt_mul c.isLt
  have hrot : (rotr15 c).toNat = c.toNat / 2 ^ 15 + c.toNat % 2 ^ 15 * 2 ^ 17 := by
    rw [rotr15_eq_append, toNat_append_add, BitVec.extractLsb'_toNat, BitVec.extractLsb'_toNat,
      Nat.shiftRight_zero, Nat.shiftRight_eq_div_pow, Nat.mod_eq_of_lt hhigh, Nat.add_comm]
  rw [mask, BitVec.toNat_add, hrot]
  rfl

/-! ## The commands (rules R68, R69) -/

/-- A one-step command in progress has its effect (rule R29). -/
theorem oneStep_running {s : State} {i : Instr} {effect : State → Result}
    (hb : s.status.busy = true) (hq : s.seq = .pure) (ho : s.op = opcode i) :
    oneStep i effect s = effect s := by
  simp [oneStep, hb, hq, ho]

theorem pbufBytes_lt (s : State) : s.pbufBytes < 2 ^ 32 :=
  Nat.lt_of_lt_of_le s.cfg.pbufBytes.isLt (by decide)

theorem payload_of_holds {s : State} {n : Word64} (hlen : p.length = n.toNat) (hp : s.holds p) :
    s.payload n = .ok p :=
  Memory.bytes_ok_iff.mpr ⟨hlen, fun i hi => (Nat.zero_add i).symm ▸ hp ⟨i, hi⟩⟩

end Checksum

/-- Settles O12: the payload is read in full, and its checksum written. -/
theorem crc32cWritesTheChecksum : Obligations.Crc32cWritesTheChecksum := by
  intro s p hb hq ho hlen hfits hp
  rw [exec_crc32c_running hb hq ho, crc32cStep, if_neg (Nat.not_lt.mpr hfits),
    payload_of_holds hlen hp]
  rfl

/-- Settles O13: a length of 2^32 or more is above every PBUF_BYTES. -/
theorem crc32cRefusesALengthAbovePbuf : Obligations.Crc32cRefusesALengthAbovePbuf := by
  intro s hb hq ho hlen
  have habove : s.pbufBytes < s.argLen.toNat :=
    hlen.elim id (Nat.lt_of_lt_of_le (pbufBytes_lt s))
  rw [exec_crc32c_running hb hq ho, crc32cStep, if_pos habove]
  rfl

/-- Settles O15: MASK's one step in state PURE, with the masked value as `mask_toNat` gives it. -/
theorem maskWritesTheMaskedValue : Obligations.MaskWritesTheMaskedValue := by
  intro s hb hq ho
  have hvalue : (mask s.argCrc).setWidth 64 = BitVec.ofNat 64 (mask s.argCrc).toNat :=
    (BitVec.ofNat_toNat 64 _).symm
  have hexec : exec .mask s = maskStep s := oneStep_running hb hq ho
  rw [hexec, maskStep, hvalue, mask_toNat]
  rfl

/-- Settles O19: `mask` is injective, and has the right inverse of rule R67. -/
theorem maskIsABijection : Obligations.MaskIsABijection :=
  ⟨fun _ _ => mask_inj, mask_unmask⟩

/-- Settles O21: the values by evaluation; the incremental form is the definition of `crc32c`. -/
theorem crc32cHasTheStandardValues : Obligations.Crc32cHasTheStandardValues :=
  ⟨by decide +kernel, by decide +kernel, by decide +kernel, by decide +kernel, by decide +kernel,
    by decide +kernel, by decide +kernel, fun _ => rfl⟩

/-- Settles O22: the register differs after the changed byte, and every later step and the masking stage
are injective. -/
theorem oneChangedByteChangesTheChecksum : Obligations.OneChangedByteChangesTheChecksum := by
  intro p q b c hne
  have hcrc : crc32c (p ++ b :: q) ≠ crc32c (p ++ c :: q) := crc32c_append_cons_inj.not.mpr hne
  exact ⟨hcrc, mask_inj.not.mpr hcrc⟩

end Sys2Proof.Machine

/-! # The length encoder (rules R70 to R74) -/

namespace Sys2Proof.Machine

/-! ## Bytes taken from a word, put together again (rule R70) -/

/-- A byte joins the bits above it. -/
theorem extractLsb'_append_byte {w : Nat} (x : BitVec w) (i n : Nat) :
    x.extractLsb' (i + 8) n ++ x.extractLsb' i 8 = x.extractLsb' i (n + 8) :=
  BitVec.extractLsb'_append_extractLsb'_eq_extractLsb' rfl

/-- Four neighbouring bytes, as a header view and `rdle4` put them together. -/
theorem extractLsb'_append_bytes {w : Nat} (x : BitVec w) (i : Nat) :
    x.extractLsb' (i + 24) 8 ++ x.extractLsb' (i + 16) 8 ++ x.extractLsb' (i + 8) 8 ++
      x.extractLsb' i 8 = x.extractLsb' i 32 := by
  rw [extractLsb'_append_byte x (i + 16) 8, extractLsb'_append_byte x (i + 8) 16,
    extractLsb'_append_byte x i 24]

theorem rdle4_le4 (v : Word) : rdle4 (le4 v) = v :=
  (extractLsb'_append_bytes v 0).trans BitVec.extractLsb'_eq_self

theorem rdle8_le8 (l : Word64) : rdle8 (le8 l) = l :=
  calc rdle8 (le8 l)
    _ = l.extractLsb' 56 8 ++ l.extractLsb' 48 8 ++ l.extractLsb' 40 8 ++ l.extractLsb' 32 8 ++
          l.extractLsb' 24 8 ++ l.extractLsb' 16 8 ++ l.extractLsb' 8 8 ++ l.extractLsb' 0 8 := rfl
    _ = l.extractLsb' 32 32 ++ l.extractLsb' 24 8 ++ l.extractLsb' 16 8 ++ l.extractLsb' 8 8 ++
          l.extractLsb' 0 8 := by rw [extractLsb'_append_bytes l 32]
    _ = l.extractLsb' 0 64 := by
      rw [extractLsb'_append_byte l 24 32, extractLsb'_append_byte l 16 40,
        extractLsb'_append_byte l 8 48, extractLsb'_append_byte l 0 56]
    _ = l := BitVec.extractLsb'_eq_self

/-- Settles O20: the bytes are taken from the length and put back at the same places. -/
theorem lengthFieldRoundTrips : Obligations.LengthFieldRoundTrips :=
  ⟨rdle8_le8, le8_rdle8⟩

/-! ## The parts of an assembled header, as bytes and as views (rules R14, R72, R73) -/

theorem hdrCrc_toList (h : Vector Byte 12) : (hdrCrc h).toList = h.toList.drop 8 := by
  have hsplit : h.toList = (hdrLen h).toList ++ (hdrCrc h).toList := by
    rw [← joinHdr_toList, joinHdr_hdrLen_hdrCrc]
  rw [hsplit, List.drop_left' Vector.length_toList]

theorem readReg_hdr0_of_joinHdr {s : State} {l : Word64} {f : Vector Byte 4}
    (h : s.hdr = joinHdr (le8 l) f) : readReg s .hdr0 = l.extractLsb' 0 32 := by
  rw [readReg, h]
  exact extractLsb'_append_bytes l 0

theorem readReg_hdr1_of_joinHdr {s : State} {l : Word64} {f : Vector Byte 4}
    (h : s.hdr = joinHdr (le8 l) f) : readReg s .hdr1 = l.extractLsb' 32 32 := by
  rw [readReg, h]
  exact extractLsb'_append_bytes l 32

theorem readReg_hdr2_of_joinHdr {s : State} {e : Vector Byte 8} {v : Word}
    (h : s.hdr = joinHdr e (le4 v)) : readReg s .hdr2 = v := by
  rw [readReg, h]
  exact rdle4_le4 v

/-- Settles O16: the length field is replaced, and the checksum field kept. -/
theorem lenencWritesTheLengthBytes : Obligations.LenencWritesTheLengthBytes := by
  intro s hb hq ho
  have hexec : exec .lenenc s = lenencStep s := oneStep_running hb hq ho
  refine ⟨_, hexec, rfl, ?_, readReg_hdr0_of_joinHdr rfl, readReg_hdr1_of_joinHdr rfl⟩
  rw [← le8_toList, ← hdrCrc_toList, ← joinHdr_toList]
  rfl

/-- Settles O17: `header` is the length field followed by its checksum, for every length. -/
theorem hdrasmAssemblesTheHeader : Obligations.HdrasmAssemblesTheHeader := by
  intro s hb hq ho
  have hexec : exec .hdrasm s = hdrasmStep s := oneStep_running hb hq ho
  refine ⟨_, hexec, rfl, ?_, rfl, readReg_hdr2_of_joinHdr rfl⟩
  rw [← le4_toList, ← le8_toList, ← joinHdr_toList]
  rfl

/-! ## The record length (rule R74) -/

/-- A word's top bit and its remaining bits, as one number. -/
theorem toNat_top_bit_add_rest {w : Nat} (x : BitVec (w + 1)) :
    (x.getLsbD w).toNat * 2 ^ w + (x.extractLsb' 0 w).toNat = x.toNat := by
  have hcons : BitVec.cons (x.getLsbD w) (x.extractLsb' 0 w) = x := by
    rw [← BitVec.setWidth_eq_extractLsb' (Nat.le_succ w)]
    exact BitVec.cons_msb_setWidth x
  rw [← Nat.shiftLeft_eq, ← BitVec.toNat_cons', hcons]

/-- 65 bits hold the sum of a 64-bit length and 16. -/
theorem reclen_toNat (n : Word64) :
    (reclenCarry n).toNat * 2 ^ 64 + (reclenResult n).toNat = 12 + n.toNat + 4 := by
  have hn : n.toNat < 2 ^ 64 := n.isLt
  have hsum : (n.setWidth 65 + 16#65).toNat = n.toNat + 16 := by
    rw [BitVec.toNat_add, BitVec.toNat_setWidth, BitVec.toNat_ofNat]
    omega
  rw [reclenCarry, reclenResult, toNat_top_bit_add_rest, hsum]
  omega

/-- Settles O18: the step writes the two parts of the 65-bit sum. -/
theorem reclenGivesTheExactRecordLength : Obligations.ReclenGivesTheExactRecordLength := by
  intro s hb hq ho
  have hexec : exec .reclen s = reclenStep s := oneStep_running hb hq ho
  exact ⟨_, hexec, reclen_toNat s.argLen, rfl⟩

end Sys2Proof.Machine

/-! # DECODE (rules R76 to R89) -/

namespace Sys2Proof.Machine

section Decode

variable {s : State} {b : Byte} {r : List ReadAnswer}

/-! ## One step, by the channel's answer and the place -/

theorem readingStep_byte {onByte : State → Byte → Result} {onEof : State → State}
    (hrx : s.rx = .byte b :: r) : readingStep onByte onEof s = onByte { s with rx := r } b := by
  simp only [readingStep, State.chanRead, hrx]

theorem readingStep_eof {onByte : State → Byte → Result} {onEof : State → State}
    (hrx : s.rx = .eof :: r) : readingStep onByte onEof s = .next (onEof s) := by
  simp only [readingStep, State.chanRead, hrx]

theorem readingStep_fail {onByte : State → Byte → Result} {onEof : State → State}
    (hrx : s.rx = .fail :: r) :
    readingStep onByte onEof s = .next ({ s with rx := r }.finish .ioFailure) := by
  simp only [readingStep, State.chanRead, hrx]

theorem sequencerTurn_decHdr_byte (hb : s.status.busy = true) (hq : s.seq = .decHdr)
    (hrx : s.rx = .byte b :: r) : sequencerTurn s = headerByte { s with rx := r } b :=
  (sequencerTurn_decHdr hb hq).trans (readingStep_byte hrx)

theorem sequencerTurn_decPay_byte (hb : s.status.busy = true) (hq : s.seq = .decPay)
    (hrx : s.rx = .byte b :: r) : sequencerTurn s = payloadByte { s with rx := r } b :=
  (sequencerTurn_decPay hb hq).trans (readingStep_byte hrx)

theorem sequencerTurn_decFtr_byte (hb : s.status.busy = true) (hq : s.seq = .decFtr)
    (hrx : s.rx = .byte b :: r) : sequencerTurn s = footerByte { s with rx := r } b :=
  (sequencerTurn_decFtr hb hq).trans (readingStep_byte hrx)

/-- In the reading places DECODE is the command in progress (rule R29). -/
theorem exec_decode_eq_sequencerTurn (hb : s.status.busy = true) (hq : s.seq.Reads) :
    exec .decode s = sequencerTurn s := by
  refine (sequencerTurn_of_inProgress hb ?_).symm
  rcases hq with hq | hq | hq <;> simp only [inProgress, hq]

theorem exec_decode_decHdr (hb : s.status.busy = true) (hq : s.seq = .decHdr) :
    exec .decode s = readingStep headerByte headerEof s :=
  (exec_decode_eq_sequencerTurn hb (.inl hq)).trans (sequencerTurn_decHdr hb hq)

theorem exec_decode_decPay (hb : s.status.busy = true) (hq : s.seq = .decPay) :
    exec .decode s = readingStep payloadByte (fun t => t.finish .truncatedRecord) s :=
  (exec_decode_eq_sequencerTurn hb (.inr (.inl hq))).trans (sequencerTurn_decPay hb hq)

theorem exec_decode_decFtr (hb : s.status.busy = true) (hq : s.seq = .decFtr) :
    exec .decode s = readingStep footerByte footerEof s :=
  (exec_decode_eq_sequencerTurn hb (.inr (.inr hq))).trans (sequencerTurn_decFtr hb hq)

theorem headerByte_of_lt (h : s.status.hdrCnt.toNat < 11) :
    headerByte s b = .next
      (State.countHdr { s with hdr := s.hdr.setIfInBounds s.status.hdrCnt.toNat b }) := by
  have hne : s.status.hdrCnt + 1 ≠ 12 := by bv_omega
  rw [headerByte, if_pos (by omega), headerStored, if_neg (by exact hne)]

/-- The twelfth header byte is followed by the length check (rules R78, R80). -/
theorem headerByte_last (h : s.status.hdrCnt = 11) :
    headerByte s b = .next (lengthCheck
      { s with hdr := s.hdr.setIfInBounds 11 b, status := { s.status with hdrCnt := 12 } }) := by
  have hcnt : s.status.hdrCnt.toNat = 11 := by rw [h]; rfl
  have hinc : s.status.hdrCnt + 1 = 12 := by rw [h]; rfl
  rw [headerByte, if_pos (by omega), headerStored, if_pos (by exact hinc), State.countHdr, hcnt,
    hinc]

theorem footerByte_of_lt (h : s.status.ftrCnt.toNat < 3) :
    footerByte s b = .next
      (State.countFtr { s with ftr := s.ftr.setIfInBounds s.status.ftrCnt.toNat b }) := by
  have hne : s.status.ftrCnt + 1 ≠ 4 := by bv_omega
  rw [footerByte, if_pos (by omega), footerStored, if_neg (by exact hne)]

/-- The fourth footer byte is followed by the data check (rules R84, R86). -/
theorem footerByte_last (h : s.status.ftrCnt = 3) :
    footerByte s b = .next (dataCheck
      { s with ftr := s.ftr.setIfInBounds 3 b, status := { s.status with ftrCnt := 4 } }) := by
  have hcnt : s.status.ftrCnt.toNat = 3 := by rw [h]; rfl
  have hinc : s.status.ftrCnt + 1 = 4 := by rw [h]; rfl
  rw [footerByte, if_pos (by omega), footerStored, if_pos (by exact hinc), State.countFtr, hcnt,
    hinc]

/-- A payload byte other than the last is stored, folded into ACC and counted (rule R82). -/
theorem payloadByte_of_lt (h : s.payCnt.toNat + 1 < s.frmLen.toNat)
    (hfits : s.frmLen.toNat ≤ s.pbufBytes) :
    payloadByte s b = .next (State.countPay
      { s with mem := s.mem.write s.payCnt.toNat b, acc := crcStep s.acc b }) := by
  have hne : s.payCnt + 1 ≠ s.frmLen := by bv_omega
  rw [payloadByte, if_pos (by omega), payloadStored, if_neg (by exact hne)]

/-- The last payload byte is followed by the footer (rule R82). -/
theorem payloadByte_last (h : s.payCnt.toNat + 1 = s.frmLen.toNat)
    (hfits : s.frmLen.toNat ≤ s.pbufBytes) :
    payloadByte s b = .next
      { s with mem := s.mem.write s.payCnt.toNat b, acc := crcStep s.acc b, payCnt := s.frmLen,
               seq := .decFtr } := by
  have hlast : s.payCnt + 1 = s.frmLen := by bv_omega
  rw [payloadByte, if_pos (by omega), payloadStored, if_pos (by exact hlast), State.countPay, hlast]

/-! ## The two checks, of a header and a footer given as bytes (rules R80, R81, R86) -/

theorem le4_of_toList {f : Vector Byte 4} {v : Word} (h : f.toList = fieldBytes v) : f = le4 v :=
  Vector.toList_inj.mp h

theorem joinHdr_of_toList {d : Vector Byte 12} {l : Word64} {v : Word}
    (h : d.toList = lengthBytes l ++ fieldBytes v) : d = joinHdr (le8 l) (le4 v) := by
  rw [← le8_toList, ← le4_toList, ← joinHdr_toList] at h
  exact Vector.toList_inj.mp h

/-- What the length check records of a header of the length `l` and the checksum `stored`. -/
theorem compareLength_of_header {l : Word64} {stored : Word}
    (h : s.hdr = joinHdr (le8 l) (le4 stored)) :
    compareLength s =
      { s with frmLen := l, crcStored := stored, crcComputed := mask (crc32c (lengthBytes l)),
               status := { s.status with crcsel := false } } := by
  have hlen : hdrLen s.hdr = le8 l := by rw [h]; rfl
  have hcrc : hdrCrc s.hdr = le4 stored := by rw [h]; rfl
  rw [compareLength, hlen, hcrc, rdle8_le8, rdle4_le4, le8_toList]

theorem capacityCheck_eq (s : State) : capacityCheck s =
    if s.pbufBytes < s.frmLen.toNat then s.ended .lengthUnsupported
    else if s.frmLen = 0 then { s with acc := crcInit, seq := .decFtr }
    else { s with acc := crcInit, seq := .decPay } := by
  rw [capacityCheck]
  split
  · rfl
  · split <;> rfl

theorem lengthCheck_eq (s : State) : lengthCheck s =
    if (compareLength s).crcComputed ≠ (compareLength s).crcStored then
      (compareLength s).ended .checksumMismatch
    else capacityCheck (compareLength s) := by
  rw [ite_not]
  rfl

/-- What the data check records of a footer of the checksum `stored`. -/
theorem compareData_of_footer {stored : Word} (h : s.ftr = le4 stored) :
    compareData s =
      { s with crcStored := stored, crcComputed := mask (s.acc ^^^ 0xFFFFFFFF#32),
               status := { s.status with crcsel := true } } := by
  rw [compareData, h, rdle4_le4]

theorem dataCheck_eq (s : State) : dataCheck s =
    if (compareData s).crcComputed ≠ (compareData s).crcStored then
      (compareData s).ended .checksumMismatch
    else (accept (compareData s)).ended .ok := by
  rw [ite_not]
  rfl

end Decode

/-- Settles O23: the byte is not the twelfth. -/
theorem decodeStoresAHeaderByte : Obligations.DecodeStoresAHeaderByte := by
  intro s b r hb hq hrx hcnt
  rw [exec_decode_decHdr hb hq, readingStep_byte hrx]
  exact headerByte_of_lt (s := { s with rx := r }) hcnt

/-- Settles O24: the length check, then the capacity check, of the header the twelfth byte completes. -/
theorem decodeChecksTheHeader : Obligations.DecodeChecksTheHeader := by
  intro s b r l stored hb hq hrx hcnt hhdr
  rw [exec_decode_decHdr hb hq, readingStep_byte hrx, headerByte_last (by exact hcnt), lengthCheck_eq,
    compareLength_of_header (joinHdr_of_toList hhdr), capacityCheck_eq]
  rfl

/-- Settles O25: PBUF after the write of one byte, the last or another. -/
theorem decodeStoresAPayloadByte : Obligations.DecodeStoresAPayloadByte := by
  intro s b r hb hq hrx hlt hfits
  have hread (i : Nat) : (s.mem.write s.payCnt.toNat b).read i =
      if i = s.payCnt.toNat then some b else s.mem.read i :=
    (Memory.read_write s.mem _ i b).trans (if_congr eq_comm rfl rfl)
  rw [exec_decode_decPay hb hq, readingStep_byte hrx]
  by_cases hlast : s.payCnt.toNat + 1 = s.frmLen.toNat
  · have hcnt : s.payCnt + 1 = s.frmLen := by bv_omega
    refine ⟨_, payloadByte_last (by exact hlast) hfits, ?_, hread⟩
    rw [if_pos hlast, hcnt]
  · refine ⟨_, payloadByte_of_lt (Nat.lt_of_le_of_ne hlt hlast) hfits, ?_, hread⟩
    rw [if_neg hlast, ← hq]
    rfl

/-- Settles O26: the byte is not the fourth. -/
theorem decodeStoresAFooterByte : Obligations.DecodeStoresAFooterByte := by
  intro s b r hb hq hrx hcnt
  rw [exec_decode_decFtr hb hq, readingStep_byte hrx]
  exact footerByte_of_lt (s := { s with rx := r }) hcnt

/-- Settles O27: the data check of the footer that the fourth byte completes. -/
theorem decodeChecksTheData : Obligations.DecodeChecksTheData := by
  intro s b r stored hb hq hrx hcnt hftr
  rw [exec_decode_decFtr hb hq, readingStep_byte hrx, footerByte_last (by exact hcnt), dataCheck_eq,
    compareData_of_footer (le4_of_toList hftr)]
  rfl

/-- Settles O28: the answer Eof, place by place. -/
theorem decodeAtEndOfStreamEnds : Obligations.DecodeAtEndOfStreamEnds := by
  intro s r hb hrx
  refine ⟨fun hq hcnt => ?_, fun hq hcnt => ?_, fun hq => ?_, fun hq hstrict => ?_⟩
  · rw [exec_decode_decHdr hb hq, readingStep_eof hrx, headerEof, if_pos hcnt]
    rfl
  · rw [exec_decode_decHdr hb hq, readingStep_eof hrx, headerEof, if_neg hcnt]
    rfl
  · rw [exec_decode_decPay hb hq, readingStep_eof hrx]
    rfl
  · rw [exec_decode_decFtr hb hq, readingStep_eof hrx, footerEof, hstrict]
    rfl

/-- Settles O29: the data check of FTR as it stands. -/
theorem sourceCompatChecksAShortFooterAsItStands :
    Obligations.SourceCompatChecksAShortFooterAsItStands := by
  intro s r stored hb hq hrx hpolicy hftr
  have hcheck : footerEof s = dataCheck s := by rw [footerEof, hpolicy]
  rw [exec_decode_decFtr hb hq, readingStep_eof hrx, hcheck, dataCheck_eq,
    compareData_of_footer (le4_of_toList hftr)]
  rfl

/-- Settles O30: the answer Fail is met alike in every reading place. -/
theorem decodeOnChannelFailureEnds : Obligations.DecodeOnChannelFailureEnds := by
  intro s r hb hrx hq
  rcases hq with hq | hq | hq
  · rw [exec_decode_decHdr hb hq, readingStep_fail hrx]
    rfl
  · rw [exec_decode_decPay hb hq, readingStep_fail hrx]
    rfl
  · rw [exec_decode_decFtr hb hq, readingStep_fail hrx]
    rfl

/-! ## Issue (rules R77, R91, R101) -/

theorem cmdWrite_command {s : State} {w : Word} {i : Instr} (hb : s.status.busy = false)
    (hw : decodeWord w = .command i) : cmdWrite s w = exec i s := by
  simp only [cmdWrite, hb, hw, Bool.false_eq_true, if_false]

/-- Settles O7: the word is a command's, and the issue of each command is `exec_issue`. -/
theorem issueStartsTheCommand : Obligations.IssueStartsTheCommand := by
  intro s rest w hag hb hrsvd hlow hhigh
  rcases decodeWord_cases w with ⟨hr, -⟩ | ⟨-, i, ho, e⟩ | ⟨-, hr, -⟩
  · exact absurd hrsvd hr
  · rw [step_cmdWrite hag, cmdWrite_command (by exact hb) e, exec_issue i _ (by exact hb), ho]
    cases i <;> rfl
  · omega

/-! ## The end of every DECODE whose stream ends (rules R79, R83, R85, R89) -/

section StreamEnds

variable {s : State} {b : Byte} {r : List ReadAnswer} {rest : List Event}

/-- A DECODE is still reading, or its command has ended (rules R29, R104). -/
def State.ReadsOrEnded (s : State) : Prop :=
  (s.status.busy = true ∧ s.seq.Reads) ∨ (s.status.busy = false ∧ s.status.done = true)

theorem capacityCheck_readsOrEnded (hb : s.status.busy = true) :
    (capacityCheck s).ReadsOrEnded := by
  rcases capacityCheck_cases s with ⟨-, e⟩ | ⟨-, e⟩ | ⟨-, -, e⟩ <;> rw [e]
  · exact .inr ⟨rfl, rfl⟩
  · exact .inl ⟨hb, .inr (.inr rfl)⟩
  · exact .inl ⟨hb, .inr (.inl rfl)⟩

theorem lengthCheck_readsOrEnded (hb : s.status.busy = true) : (lengthCheck s).ReadsOrEnded := by
  rcases lengthCheck_cases s with ⟨-, e⟩ | ⟨-, e⟩ <;> rw [e]
  · exact .inr ⟨rfl, rfl⟩
  · exact capacityCheck_readsOrEnded hb

theorem dataCheck_ended (s : State) :
    (dataCheck s).status.busy = false ∧ (dataCheck s).status.done = true := by
  rcases dataCheck_cases s with ⟨-, e⟩ | ⟨-, e⟩ <;> rw [e] <;> exact ⟨rfl, rfl⟩

theorem headerByte_readsOrEnded (h : Inv s) (hq : s.seq = .decHdr) (b : Byte) :
    ∃ t, headerByte s b = .next t ∧ t.ReadsOrEnded := by
  obtain ⟨-, hcnt, -⟩ := (seqInv_decHdr hq).mp h.place
  obtain ⟨hb, -⟩ := h.running_of_seq (by simp [hq])
  refine ⟨_, if_pos hcnt, ?_⟩
  rw [headerStored]
  split
  · exact lengthCheck_readsOrEnded hb
  · exact .inl ⟨hb, .inl hq⟩

theorem payloadByte_readsOrEnded (h : Inv s) (hq : s.seq = .decPay) (b : Byte) :
    ∃ t, payloadByte s b = .next t ∧ t.ReadsOrEnded := by
  obtain ⟨-, -, -, hlt, ⟨-, hcap⟩, -⟩ := (seqInv_decPay hq).mp h.place
  obtain ⟨hb, -⟩ := h.running_of_seq (by simp [hq])
  refine ⟨_, if_pos (hlt.trans_le hcap), ?_⟩
  rw [payloadStored]
  split
  · exact .inl ⟨hb, .inr (.inr rfl)⟩
  · exact .inl ⟨hb, .inr (.inl hq)⟩

theorem footerByte_readsOrEnded (h : Inv s) (hq : s.seq = .decFtr) (b : Byte) :
    ∃ t, footerByte s b = .next t ∧ t.ReadsOrEnded := by
  obtain ⟨-, -, hcnt, -⟩ := (seqInv_decFtr hq).mp h.place
  obtain ⟨hb, -⟩ := h.running_of_seq (by simp [hq])
  refine ⟨_, if_pos hcnt, ?_⟩
  rw [footerStored]
  split
  · exact .inr (dataCheck_ended _)
  · exact .inl ⟨hb, .inr (.inr hq)⟩

/-- A turn that takes a byte reads on or ends the command; it never faults and is never refused. -/
theorem sequencerTurn_byte (h : Inv s) (hb : s.status.busy = true) (hq : s.seq.Reads)
    (hrx : s.rx = .byte b :: r) :
    ∃ t, sequencerTurn s = .next t ∧ t.rx = r ∧ t.ReadsOrEnded := by
  have hu : Inv { s with rx := r } := h.outside s.agenda r s.tx s.sent s.response
  rcases hq with hq | hq | hq
  · obtain ⟨t, e, ht⟩ := headerByte_readsOrEnded hu hq b
    obtain ⟨-, hr, -⟩ := store_eq_iff.mp (headerByte_store e)
    exact ⟨t, (sequencerTurn_decHdr_byte hb hq hrx).trans e, hr, ht⟩
  · obtain ⟨t, e, ht⟩ := payloadByte_readsOrEnded hu hq b
    obtain ⟨-, hr, -⟩ := store_eq_iff.mp (payloadByte_store e)
    exact ⟨t, (sequencerTurn_decPay_byte hb hq hrx).trans e, hr, ht⟩
  · obtain ⟨t, e, ht⟩ := footerByte_readsOrEnded hu hq b
    obtain ⟨-, hr, -⟩ := store_eq_iff.mp (footerByte_store e)
    exact ⟨t, (sequencerTurn_decFtr_byte hb hq hrx).trans e, hr, ht⟩

theorem footerEof_ended (s : State) :
    (footerEof s).status.busy = false ∧ (footerEof s).status.done = true := by
  unfold footerEof
  split
  · exact ⟨rfl, rfl⟩
  · exact dataCheck_ended s

/-- A turn that meets end-of-stream ends the command (rules R79, R83, R85). -/
theorem sequencerTurn_eof (hb : s.status.busy = true) (hq : s.seq.Reads)
    (hrx : s.rx = .eof :: r) :
    ∃ t, sequencerTurn s = .next t ∧ t.status.busy = false ∧ t.status.done = true := by
  rcases hq with hq | hq | hq
  · exact ⟨_, by rw [sequencerTurn_decHdr hb hq, readingStep_eof hrx], rfl, rfl⟩
  · exact ⟨_, by rw [sequencerTurn_decPay hb hq, readingStep_eof hrx], rfl, rfl⟩
  · exact ⟨_, by rw [sequencerTurn_decFtr hb hq, readingStep_eof hrx], footerEof_ended s⟩

/-- The agenda's turn of the sequencer, with what it leaves of the agenda. -/
theorem run_sequencer {t : State} {n : Nat}
    (hag : s.agenda = List.replicate (n + 1) .sequencer ++ rest)
    (h : sequencerTurn { s with agenda := List.replicate n .sequencer ++ rest } = .next t) :
    run (n + 1) s = run n t ∧ t.agenda = List.replicate n .sequencer ++ rest := by
  rw [List.replicate_succ, List.cons_append] at hag
  obtain ⟨-, -, -, -, hagt⟩ := operands_eq_of_hostSide (sequencerTurn_hostSide _ t h)
  exact ⟨run_succ_of_next n ((step_cons hag).trans h), hagt⟩

theorem run_free {n : Nat} (hb : s.status.busy = false)
    (hag : s.agenda = List.replicate n .sequencer ++ rest) :
    run n s = .next { s with agenda := rest } :=
  run_idle_turns n (fun _ => sequencerTurn_of_free (by exact hb)) hag

end StreamEnds

/-- Settles O58: by the bytes left; each is taken or finds the command ended, and the end of the stream
ends it. -/
theorem decodeEndsOnceTheStreamEnds : Obligations.DecodeEndsOnceTheStreamEnds := by
  intro s bs rest h hb hq hrx hag
  induction bs generalizing s with
  | nil =>
    obtain ⟨t, e, hfree, hdone⟩ :=
      sequencerTurn_eof (s := { s with agenda := rest }) hb hq hrx
    obtain ⟨hrun, hagt⟩ := run_sequencer (n := 0) hag e
    exact ⟨t, hrun, hfree, hdone, hagt⟩
  | cons b bs ih =>
    have hu : Inv { s with agenda := List.replicate (bs.length + 1) .sequencer ++ rest } :=
      h.outside _ s.rx s.tx s.sent s.response
    obtain ⟨t, e, hrxt, hend⟩ := sequencerTurn_byte hu hb hq hrx
    have ht : Inv t := by
      have hs := sequencerTurn_sound hu
      rwa [e] at hs
    obtain ⟨hrun, hagt⟩ := run_sequencer hag e
    rw [List.length_cons] at hrun hagt ⊢
    rw [hrun]
    rcases hend with ⟨hbt, hqt⟩ | ⟨hfree, hdone⟩
    · exact ih t ht hbt hqt hrxt hagt
    · exact ⟨_, run_free hfree hagt, hfree, hdone, rfl⟩

/-! ## VALID (rules R86, R88) -/

section Valid

variable {s t : State}

/-- No next state that `r` answers has VALID set. -/
def LeavesValidClear (r : Result) : Prop := ∀ t, r = .next t → t.status.valid = false

theorem leavesValidClear_next (h : t.status.valid = false) : LeavesValidClear (.next t) := by
  rintro _ ⟨⟩
  exact h

theorem leavesValidClear_fault (f : Fault) : LeavesValidClear (.fault f) := by
  rintro _ ⟨⟩

theorem leavesValidClear_refused (f : Refusal) : LeavesValidClear (.refused f) := by
  rintro _ ⟨⟩

theorem capacityCheck_valid (s : State) : (capacityCheck s).status.valid = s.status.valid := by
  rcases capacityCheck_cases s with ⟨-, e⟩ | ⟨-, e⟩ | ⟨-, -, e⟩ <;>
    exact congrArg (·.status.valid) e

theorem lengthCheck_valid (s : State) : (lengthCheck s).status.valid = s.status.valid := by
  rcases lengthCheck_cases s with ⟨-, e⟩ | ⟨-, e⟩ <;> rw [e]
  · rfl
  · exact capacityCheck_valid _

theorem headerByte_leavesValidClear (hv : s.status.valid = false) (b : Byte) :
    LeavesValidClear (headerByte s b) := by
  unfold headerByte headerStored
  split
  · apply leavesValidClear_next
    split
    · exact (lengthCheck_valid _).trans hv
    · exact hv
  · exact leavesValidClear_refused _

theorem payloadByte_leavesValidClear (hv : s.status.valid = false) (b : Byte) :
    LeavesValidClear (payloadByte s b) := by
  unfold payloadByte payloadStored
  split
  · apply leavesValidClear_next
    split <;> exact hv
  · exact leavesValidClear_refused _

theorem execDecode_leavesValidClear (hv : s.status.valid = false) (hq : s.seq ≠ .decFtr) :
    LeavesValidClear (execDecode s) := by
  rcases execDecode_cases s with ⟨-, e⟩ | ⟨-, -, -, -, e⟩ |
    ⟨-, -, ⟨-, e⟩ | ⟨r, -, e⟩ | ⟨r, -, ⟨-, e⟩ | ⟨-, e⟩ | ⟨hf, -⟩⟩ |
      ⟨b, r, -, ⟨-, e⟩ | ⟨-, e⟩ | ⟨hf, -⟩⟩⟩
  · exact e ▸ leavesValidClear_next rfl
  · exact e ▸ leavesValidClear_next hv
  · exact e ▸ leavesValidClear_next hv
  · exact e ▸ leavesValidClear_next hv
  · exact e ▸ leavesValidClear_next hv
  · exact e ▸ leavesValidClear_next hv
  · exact absurd hf hq
  · exact e ▸ headerByte_leavesValidClear (s := { s with rx := r }) hv b
  · exact e ▸ payloadByte_leavesValidClear (s := { s with rx := r }) hv b
  · exact absurd hf hq

theorem writingStep_leavesValidClear {b : Byte} {onOk : State → State}
    (hv : s.status.valid = false) (hok : ∀ u, (onOk u).status.valid = u.status.valid) :
    LeavesValidClear (writingStep b onOk s) := by
  rcases writingStep_cases b onOk s with ⟨-, e⟩ | ⟨r, -, e⟩ | ⟨r, -, e⟩ <;> rw [e]
  · exact leavesValidClear_next hv
  · exact leavesValidClear_next ((hok _).trans hv)
  · exact leavesValidClear_next hv

theorem encodeStart_leavesValidClear (hv : s.status.valid = false) :
    LeavesValidClear (encodeStart s) := by
  rcases encodeStart_cases s with ⟨-, e⟩ | ⟨-, i, -, e⟩ | ⟨-, p, -, e⟩ <;> rw [e]
  · exact leavesValidClear_next hv
  · exact leavesValidClear_fault _
  · exact leavesValidClear_next hv

theorem headerSent_valid (s : State) : (headerSent s).status.valid = s.status.valid := by
  unfold headerSent
  split <;> rfl

theorem payloadSent_valid (s : State) : (payloadSent s).status.valid = s.status.valid := by
  unfold payloadSent
  split <;> rfl

theorem footerSent_valid (s : State) : (footerSent s).status.valid = s.status.valid := by
  unfold footerSent
  split <;> rfl

theorem encodeHeader_leavesValidClear (hv : s.status.valid = false) :
    LeavesValidClear (encodeHeader s) := by
  unfold encodeHeader
  split
  · exact leavesValidClear_refused _
  · exact writingStep_leavesValidClear hv fun u => headerSent_valid u.countHdr

theorem encodePayload_leavesValidClear (hv : s.status.valid = false) :
    LeavesValidClear (encodePayload s) := by
  unfold encodePayload
  split
  · split
    · exact leavesValidClear_fault _
    · exact writingStep_leavesValidClear hv fun u => payloadSent_valid u.countPay
  · exact leavesValidClear_refused _

theorem encodeFooter_leavesValidClear (hv : s.status.valid = false) :
    LeavesValidClear (encodeFooter s) := by
  unfold encodeFooter
  split
  · exact leavesValidClear_refused _
  · exact writingStep_leavesValidClear hv fun u => footerSent_valid u.countFtr

theorem execEncode_leavesValidClear (hv : s.status.valid = false) :
    LeavesValidClear (execEncode s) := by
  rcases execEncode_cases s with ⟨-, e⟩ | ⟨-, -, -, -, -, e⟩ |
    ⟨-, ⟨-, e⟩ | ⟨-, e⟩ | ⟨-, e⟩ | ⟨-, e⟩⟩ <;> rw [e]
  · exact leavesValidClear_next rfl
  · exact leavesValidClear_next hv
  · exact encodeStart_leavesValidClear hv
  · exact encodeHeader_leavesValidClear hv
  · exact encodePayload_leavesValidClear hv
  · exact encodeFooter_leavesValidClear hv

theorem oneStep_leavesValidClear {i : Instr} {effect : State → Result}
    (hv : s.status.valid = false) (heff : LeavesValidClear (effect s)) :
    LeavesValidClear (oneStep i effect s) := by
  rcases oneStep_cases i effect s with ⟨-, e⟩ | ⟨-, -, -, e⟩ | ⟨-, -, e⟩ <;> rw [e]
  · exact leavesValidClear_next rfl
  · exact heff
  · exact leavesValidClear_next hv

theorem crc32cStep_leavesValidClear (hv : s.status.valid = false) :
    LeavesValidClear (crc32cStep s) := by
  unfold crc32cStep
  split
  · exact leavesValidClear_next hv
  · split
    · exact leavesValidClear_fault _
    · exact leavesValidClear_next hv

/-- No command sets VALID outside DEC_FTR (rules R86, R88). -/
theorem exec_leavesValidClear (i : Instr) (hv : s.status.valid = false) (hq : s.seq ≠ .decFtr) :
    LeavesValidClear (exec i s) := by
  cases i
  case crc32c => exact oneStep_leavesValidClear hv (crc32cStep_leavesValidClear hv)
  case decode => exact execDecode_leavesValidClear hv hq
  case encode => exact execEncode_leavesValidClear hv
  all_goals exact oneStep_leavesValidClear hv (leavesValidClear_next hv)

theorem cmdWrite_leavesValidClear (hv : s.status.valid = false) (w : Word) :
    LeavesValidClear (cmdWrite s w) := by
  rcases cmdWrite_cases s w with ⟨-, e⟩ | ⟨hb, i, -, e⟩ | ⟨-, _, -, e⟩ <;> rw [e]
  · exact leavesValidClear_next hv
  · rw [exec_issue i s hb]
    cases i <;> exact leavesValidClear_next rfl
  · exact leavesValidClear_next rfl

theorem hostAccess_leavesValidClear (hv : s.status.valid = false) (a : Access) :
    LeavesValidClear (hostAccess s a) := by
  cases a with
  | read off size =>
    rw [hostAccess]
    rcases hostRead_cases s off size with ⟨a, e⟩ | ⟨i, e, -⟩ <;> rw [e]
    · exact leavesValidClear_next hv
    · exact leavesValidClear_fault _
  | write off size v =>
    rw [hostAccess]
    rcases hostWrite_cases s off size v with ⟨r, -, -, e⟩ | e | ⟨-, -, e⟩ <;> rw [e]
    · rcases hostWriteReg_cases s r v with
        ⟨-, e⟩ | ⟨-, e, -⟩ | ⟨-, e⟩ | ⟨-, l, c, e, -⟩ | ⟨-, e⟩ <;> rw [e]
      · exact cmdWrite_leavesValidClear (s := s.respond .ok) hv v
      all_goals exact leavesValidClear_next hv
    all_goals exact leavesValidClear_next hv

/-- PBUF holds a record that both checks accepted: the ended command's report, the header, and the
payload under its checksum (rules R86, R88). -/
def RecordAccepted (t : State) : Prop :=
  t.status.rc = .ok ∧ t.status.done = true ∧
  t.hdr.toList = lengthBytes t.frmLen ++ fieldBytes (mask (crc32c (lengthBytes t.frmLen))) ∧
  t.crcStored = t.crcComputed ∧
  ∃ p : List Byte, p.length = t.frmLen.toNat ∧ t.holds p ∧ t.crcComputed = mask (crc32c p)

/-- A data check that sets VALID compared the checksum of the payload in PBUF (rule R86). -/
theorem dataCheck_recordAccepted (e : dataCheck s = t) (hv : s.status.valid = false)
    (hpay : s.payCnt = s.frmLen) (hhdr : HeaderChecked s) (htracked : PayloadTracked s)
    (h : t.status.valid = true) : RecordAccepted t := by
  subst e
  rcases dataCheck_cases s with ⟨-, e⟩ | ⟨heq, e⟩ <;> rw [e] at h ⊢
  · exact absurd (hv.symm.trans h) Bool.false_ne_true
  · obtain ⟨hbytes, -⟩ := hhdr
    obtain ⟨p, hlen, hholds, hacc⟩ := htracked
    refine ⟨rfl, rfl, hbytes, heq.symm, p, hlen.trans (congrArg _ hpay), hholds, ?_⟩
    simp [hacc, crc32c, crcFold, crcInit]

/-- In DEC_FTR, VALID is set by the data check alone, after the fourth byte or at end-of-stream. -/
theorem sequencerTurn_decFtr_recordAccepted (h : Inv s) (hq : s.seq = .decFtr)
    (e : sequencerTurn s = .next t) (ht : t.status.valid = true) : RecordAccepted t := by
  obtain ⟨hb, -, hv, -⟩ := h.running_of_seq (by simp [hq])
  obtain ⟨-, -, -, hpay, hhdr, htracked⟩ := (seqInv_decFtr hq).mp h.place
  have hne : ¬(s.status.valid = true) := by simp [hv]
  rw [sequencerTurn_decFtr hb hq] at e
  rcases readingStep_cases footerByte footerEof s with
    ⟨-, e'⟩ | ⟨b, r, -, e'⟩ | ⟨r, -, e'⟩ | ⟨r, -, e'⟩ <;> rw [e'] at e
  · cases e
    exact absurd ht hne
  · unfold footerByte footerStored at e
    split at e
    · split at e
      · exact dataCheck_recordAccepted (Host.Outcome.next.inj e) hv hpay hhdr htracked ht
      · cases e
        exact absurd ht hne
    · cases e
  · unfold footerEof at e
    split at e
    · cases e
      exact absurd ht hne
    · exact dataCheck_recordAccepted (Host.Outcome.next.inj e) hv hpay hhdr htracked ht
  · cases e
    exact absurd ht hne

theorem sequencerTurn_recordAccepted (h : Inv s) (hv : s.status.valid = false)
    (e : sequencerTurn s = .next t) (ht : t.status.valid = true) :
    s.seq = .decFtr ∧ RecordAccepted t := by
  have hq : s.seq = .decFtr := by
    by_contra hq
    have hclear : t.status.valid = false := by
      rcases sequencerTurn_cases s with ⟨-, e'⟩ | ⟨-, i, -, e'⟩ | ⟨-, -, e'⟩ <;> rw [e'] at e
      · cases e
        exact hv
      · exact exec_leavesValidClear i hv hq t e
      · cases e
    exact absurd (hclear.symm.trans ht) Bool.false_ne_true
  exact ⟨hq, sequencerTurn_decFtr_recordAccepted h hq e ht⟩

end Valid

/-- Settles O51: of the agents only the sequencer sets VALID, in DEC_FTR. -/
theorem validOnlyAfterBothChecksComparedEqual :
    Obligations.ValidOnlyAfterBothChecksComparedEqual := by
  intro s t h e hv ht
  rcases step_cases s with ⟨-, e'⟩ | ⟨ev, rest, -, e'⟩ <;> rw [e'] at e
  · exact sequencerTurn_recordAccepted h hv e ht
  · have hu : Inv { s with agenda := rest } := h.outside rest s.rx s.tx s.sent s.response
    cases ev with
    | host a =>
      have hclear := hostAccess_leavesValidClear (s := { s with agenda := rest }) hv a t e
      exact absurd (hclear.symm.trans ht) Bool.false_ne_true
    | sequencer =>
      exact sequencerTurn_recordAccepted (s := { s with agenda := rest }) hu hv e ht
    | reset => cases e; cases ht
    | connectInput | connectOutput =>
      cases e
      exact absurd (hv.symm.trans ht) Bool.false_ne_true

/-! ## One byte of a frame changed (rules R67, R80, R86) -/

section FrameRun

variable {s : State} {r : List ReadAnswer} {rest : List Event}

/-! ### The bytes of a frame, place by place -/

/-- A buffer being filled with the bytes of `w` takes the next of them. -/
theorem AgreeBelow.next_byte {n k : Nat} {v w : Vector Byte n} {b : Byte} {bs : List Byte}
    (h : AgreeBelow k v w) (hbs : w.toList.drop k = b :: bs) :
    AgreeBelow (k + 1) (v.setIfInBounds k b) w ∧ w.toList.drop (k + 1) = bs ∧
      k + bs.length + 1 = n := by
  have hlen := congrArg List.length hbs
  simp only [List.length_drop, Vector.length_toList, List.length_cons] at hlen
  have hk : k < w.toList.length := by rw [Vector.length_toList]; omega
  rw [List.drop_eq_getElem_cons hk, List.cons.injEq, Vector.getElem_toList] at hbs
  obtain ⟨hnext, hdrop⟩ := hbs
  refine ⟨fun i hi hle => ?_, hdrop, by omega⟩
  rw [Vector.getElem_setIfInBounds]
  split
  · next e =>
    subst e
    exact hnext.symm
  · exact h i hi (by omega)

/-- The last header bytes, up to the twelfth and its length check (rules R78, R80). -/
theorem run_headerBytes {d : Vector Byte 12} {bs : List Byte} (hne : bs ≠ [])
    (hb : s.status.busy = true) (hq : s.seq = .decHdr)
    (hagree : AgreeBelow s.status.hdrCnt.toNat s.hdr d)
    (hbs : d.toList.drop s.status.hdrCnt.toNat = bs)
    (hrx : s.rx = bs.map .byte ++ r) (hag : s.agenda = List.replicate bs.length .sequencer ++ rest) :
    run bs.length s = .next (lengthCheck
      { s with rx := r, agenda := rest, hdr := d, status := { s.status with hdrCnt := 12 } }) := by
  induction bs generalizing s with
  | nil => exact absurd rfl hne
  | cons b bs ih =>
    obtain ⟨hagree', hbs', hcnt⟩ := hagree.next_byte hbs
    have hturn := sequencerTurn_decHdr_byte
      (s := { s with agenda := List.replicate bs.length .sequencer ++ rest }) hb hq hrx
    cases bs with
    | nil =>
      have h11 : s.status.hdrCnt = 11 := BitVec.eq_of_toNat_eq (by simpa using hcnt)
      have hd : s.hdr.setIfInBounds 11 b = d := by
        rw [h11] at hagree'
        exact hagree'.eq
      obtain ⟨hrun, -⟩ := run_sequencer hag (hturn.trans (headerByte_last h11))
      rw [← hd]
      exact hrun
    | cons c bs =>
      rw [List.length_cons] at hcnt
      have hinc : (s.status.hdrCnt + 1).toNat = s.status.hdrCnt.toNat + 1 :=
        toNat_add_one (n := 12) (show s.status.hdrCnt.toNat < 12 by omega)
      have hlt : s.status.hdrCnt.toNat < 11 := by omega
      obtain ⟨hrun, hagt⟩ := run_sequencer hag (hturn.trans (headerByte_of_lt hlt))
      rw [← hinc] at hagree' hbs'
      exact hrun.trans (ih (List.cons_ne_nil c bs) hb hq hagree' hbs' rfl hagt)

/-- The last payload bytes, up to the footer (rule R82). -/
theorem run_payloadBytes {p : List Byte} (hne : p ≠ []) (hb : s.status.busy = true)
    (hq : s.seq = .decPay) (hlen : s.payCnt.toNat + p.length = s.frmLen.toNat)
    (hfits : s.frmLen.toNat ≤ s.pbufBytes)
    (hrx : s.rx = p.map .byte ++ r) (hag : s.agenda = List.replicate p.length .sequencer ++ rest) :
    run p.length s = .next
      { s with rx := r, agenda := rest, mem := s.mem.writeBytes s.payCnt.toNat p,
               acc := p.foldl crcStep s.acc, payCnt := s.frmLen, seq := .decFtr } := by
  induction p generalizing s with
  | nil => exact absurd rfl hne
  | cons b p ih =>
    rw [List.length_cons] at hlen
    have hturn := sequencerTurn_decPay_byte
      (s := { s with agenda := List.replicate p.length .sequencer ++ rest }) hb hq hrx
    cases p with
    | nil =>
      obtain ⟨hrun, -⟩ := run_sequencer hag (hturn.trans (payloadByte_last hlen hfits))
      exact hrun
    | cons c p =>
      rw [List.length_cons] at hlen
      have hlt : s.payCnt.toNat + 1 < s.frmLen.toNat := by omega
      have hinc : (s.payCnt + 1).toNat = s.payCnt.toNat + 1 := toNat_add_one (Nat.lt_of_succ_lt hlt)
      have hlen' : (s.payCnt + 1).toNat + (c :: p).length = s.frmLen.toNat := by
        rw [hinc, List.length_cons]
        omega
      obtain ⟨hrun, hagt⟩ := run_sequencer hag (hturn.trans (payloadByte_of_lt hlt hfits))
      rw [List.length_cons, hrun]
      refine (ih (List.cons_ne_nil c p) (by exact hb) (by exact hq) (by exact hlen')
        (by exact hfits) rfl hagt).trans ?_
      rw [countPay_payCnt, hinc]
      rfl

/-- The last footer bytes, up to the fourth and its data check (rules R84, R86). -/
theorem run_footerBytes {f : Vector Byte 4} {bs : List Byte} (hne : bs ≠ [])
    (hb : s.status.busy = true) (hq : s.seq = .decFtr)
    (hagree : AgreeBelow s.status.ftrCnt.toNat s.ftr f)
    (hbs : f.toList.drop s.status.ftrCnt.toNat = bs)
    (hrx : s.rx = bs.map .byte ++ r) (hag : s.agenda = List.replicate bs.length .sequencer ++ rest) :
    run bs.length s = .next (dataCheck
      { s with rx := r, agenda := rest, ftr := f, status := { s.status with ftrCnt := 4 } }) := by
  induction bs generalizing s with
  | nil => exact absurd rfl hne
  | cons b bs ih =>
    obtain ⟨hagree', hbs', hcnt⟩ := hagree.next_byte hbs
    have hturn := sequencerTurn_decFtr_byte
      (s := { s with agenda := List.replicate bs.length .sequencer ++ rest }) hb hq hrx
    cases bs with
    | nil =>
      have h3 : s.status.ftrCnt = 3 := BitVec.eq_of_toNat_eq (by simpa using hcnt)
      have hf : s.ftr.setIfInBounds 3 b = f := by
        rw [h3] at hagree'
        exact hagree'.eq
      obtain ⟨hrun, -⟩ := run_sequencer hag (hturn.trans (footerByte_last h3))
      rw [← hf]
      exact hrun
    | cons c bs =>
      rw [List.length_cons] at hcnt
      have hinc : (s.status.ftrCnt + 1).toNat = s.status.ftrCnt.toNat + 1 :=
        toNat_add_one (n := 4) (show s.status.ftrCnt.toNat < 4 by omega)
      have hlt : s.status.ftrCnt.toNat < 3 := by omega
      obtain ⟨hrun, hagt⟩ := run_sequencer hag (hturn.trans (footerByte_of_lt hlt))
      rw [← hinc] at hagree' hbs'
      exact hrun.trans (ih (List.cons_ne_nil c bs) hb hq hagree' hbs' rfl hagt)

/-! ### A whole DECODE, from its issue -/

/-- A DECODE that was issued and has read nothing (rules R77, R101). -/
structure AtFirstByte (s : State) : Prop where
  busy : s.status.busy = true
  seq : s.seq = .decHdr
  hdrCnt : s.status.hdrCnt = 0
  ftrCnt : s.status.ftrCnt = 0
  payCnt : s.payCnt = 0
  valid : s.status.valid = false

theorem decodeIssue_atFirstByte (s : State) : AtFirstByte (decodeIssue s) :=
  ⟨rfl, rfl, rfl, rfl, rfl, rfl⟩

/-- The twelve header bytes `d`, up to the length check (rules R78, R80). -/
theorem AtFirstByte.run_header (h : AtFirstByte s) {d : Vector Byte 12}
    (hrx : s.rx = d.toList.map .byte ++ r) (hag : s.agenda = List.replicate 12 .sequencer ++ rest) :
    run 12 s = .next (lengthCheck
      { s with rx := r, agenda := rest, hdr := d, status := { s.status with hdrCnt := 12 } }) := by
  have hcnt : s.status.hdrCnt.toNat = 0 := by rw [h.hdrCnt]; rfl
  have hlen : d.toList.length = 12 := Vector.length_toList
  rw [← hlen] at hag ⊢
  exact run_headerBytes (List.ne_nil_of_length_eq_add_one hlen) h.busy h.seq
    (hcnt ▸ agreeBelow_zero _ _) (by rw [hcnt, List.drop_zero]) hrx hag

/-- The payload `q` of the length that the header gave, up to the footer, empty or not (rules R81,
R82). -/
theorem run_payload {q : List Byte} (hb : s.status.busy = true) (hpay : s.payCnt = 0)
    (hlen : q.length = s.frmLen.toNat) (hfits : s.frmLen.toNat ≤ s.pbufBytes)
    (hrx : s.rx = q.map .byte ++ r) (hag : s.agenda = List.replicate q.length .sequencer ++ rest) :
    run q.length (capacityCheck s) = .next
      { s with rx := r, agenda := rest, mem := s.mem.writeBytes 0 q, acc := crcFold q,
               payCnt := s.frmLen, seq := .decFtr } := by
  rcases capacityCheck_cases s with ⟨hbig, -⟩ | ⟨h0, e⟩ | ⟨h0, -, e⟩
  · omega
  · obtain rfl : q = [] := List.eq_nil_of_length_eq_zero (by rw [hlen, h0]; rfl)
    have hcnt : s.payCnt = s.frmLen := hpay.trans h0.symm
    rw [e, ← hcnt, ← show s.rx = r from hrx, ← show s.agenda = rest from hag]
    rfl
  · have hcnt : s.payCnt.toNat = 0 := by rw [hpay]; rfl
    have hne : q ≠ [] := by
      rintro rfl
      exact h0 (BitVec.eq_of_toNat_eq hlen.symm)
    rw [e]
    refine (run_payloadBytes (s := { s with acc := crcInit, seq := .decPay }) hne hb rfl
      (by rw [hcnt, Nat.zero_add, hlen]) hfits hrx hag).trans ?_
    simp only [hcnt]
    rfl

/-- The footer `f`, up to the data check (rules R84, R86). -/
theorem run_footer {f : Vector Byte 4} (hb : s.status.busy = true) (hq : s.seq = .decFtr)
    (hftr : s.status.ftrCnt = 0) (hrx : s.rx = f.toList.map .byte ++ r)
    (hag : s.agenda = List.replicate 4 .sequencer ++ rest) :
    run 4 s = .next (dataCheck
      { s with rx := r, agenda := rest, ftr := f, status := { s.status with ftrCnt := 4 } }) := by
  have hcnt : s.status.ftrCnt.toNat = 0 := by rw [hftr]; rfl
  have hlen : f.toList.length = 4 := Vector.length_toList
  rw [← hlen] at hag ⊢
  exact run_footerBytes (List.ne_nil_of_length_eq_add_one hlen) hb hq
    (hcnt ▸ agreeBelow_zero _ _) (by rw [hcnt, List.drop_zero]) hrx hag

/-- The state in which a DECODE checks the data: the header of `l`, the payload `q` and the footer `f`
were read (rules R80, R82, R84). -/
def frameRead (s : State) (l : Word64) (q : List Byte) (f : Vector Byte 4) : State :=
  { s with
    frmLen := l, payCnt := l, crcStored := lengthCrc l, crcComputed := lengthCrc l, hdr := header l,
    ftr := f, seq := .decFtr, acc := crcFold q, mem := s.mem.writeBytes 0 q,
    status := { s.status with crcsel := false, hdrCnt := 12, ftrCnt := 4 } }

/-- A header of `l` passes the length check (rules R71, R80). -/
theorem lengthCheck_header {l : Word64} (h : s.hdr = header l) :
    lengthCheck s = capacityCheck
      { s with frmLen := l, crcStored := lengthCrc l, crcComputed := lengthCrc l,
               status := { s.status with crcsel := false } } := by
  rw [lengthCheck_eq, compareLength_of_header h]
  exact if_neg (not_not.mpr rfl)

/-- A DECODE of a header that fits and as many payload bytes as it says ends in the data check (rules
R78 to R86). -/
theorem AtFirstByte.run_frame (h : AtFirstByte s) {l : Word64} {q : List Byte} {f : Vector Byte 4}
    (hlen : q.length = l.toNat) (hfits : q.length ≤ s.pbufBytes)
    (hrx : s.rx = ((header l).toList ++ (q ++ f.toList)).map .byte ++ r)
    (hag : s.agenda = List.replicate (12 + q.length + 4) .sequencer ++ rest) :
    run (12 + q.length + 4) s =
      .next (dataCheck (frameRead { s with rx := r, agenda := rest } l q f)) := by
  simp only [List.map_append, List.append_assoc] at hrx
  simp only [List.replicate_add, List.append_assoc] at hag
  have hhdr := h.run_header hrx hag
  rw [lengthCheck_header rfl] at hhdr
  have hpay := run_payload (q := q) (s := { s with
      rx := q.map .byte ++ (f.toList.map .byte ++ r),
      agenda := List.replicate q.length .sequencer ++ (List.replicate 4 .sequencer ++ rest),
      hdr := header l, frmLen := l, crcStored := lengthCrc l, crcComputed := lengthCrc l,
      status := { s.status with hdrCnt := 12, crcsel := false } })
    h.busy h.payCnt hlen (hlen ▸ hfits) rfl rfl
  rw [Nat.add_assoc, run_add _ hhdr, run_add _ hpay]
  exact run_footer h.busy rfl h.ftrCnt rfl rfl

end FrameRun

/-! ### The checksum of changed bytes -/

section Changed

variable {m m' : List Byte} {i : Nat} {b : Byte}

/-- Bytes followed by their masked CRC32C, as a header holds its length field and a frame its payload
(rule R11). -/
def sealed (m : List Byte) : List Byte := m ++ fieldBytes (mask (crc32c m))

@[simp] theorem sealed_length (m : List Byte) : (sealed m).length = m.length + 4 :=
  List.length_append

theorem header_toList (l : Word64) : (header l).toList = sealed (lengthBytes l) :=
  joinHdr_toList _ _

theorem frame_eq (p : List Byte) :
    frame p = (header (BitVec.ofNat 64 p.length)).toList ++ sealed p :=
  List.append_assoc ..

theorem crc32c_set_ne (hi : i < m.length) (hne : m[i]? ≠ some b) :
    crc32c (m.set i b) ≠ crc32c m := by
  rw [List.getElem?_eq_getElem hi] at hne
  have hsplit : m = m.take i ++ m[i] :: m.drop (i + 1) := by
    rw [← List.drop_eq_getElem_cons hi, List.take_append_drop]
  rw [List.set_eq_take_append_cons_drop, if_pos hi]
  conv_rhs => rw [hsplit]
  exact crc32c_append_cons_inj.not.mpr fun e => hne (congrArg some e.symm)

/-- One byte of a message or of its checksum changed: the two no longer agree (rules R67, R80, R86). -/
theorem checksum_ne_of_set {c : Vector Byte 4} (hset : m' ++ c.toList = (sealed m).set i b)
    (hi : i < m.length + 4) (hne : (sealed m)[i]? ≠ some b) : mask (crc32c m') ≠ rdle4 c := by
  have hlen : m'.length = m.length := by
    have h := congrArg List.length hset
    simpa using h
  by_cases hlow : i < m.length
  · rw [sealed, List.set_append_left _ _ hlow] at hset
    rw [sealed, List.getElem?_append_left hlow] at hne
    obtain ⟨rfl, hc⟩ := List.append_inj hset (by rw [hlen, List.length_set])
    rw [le4_of_toList hc, rdle4_le4]
    exact mask_inj.not.mpr (crc32c_set_ne hlow hne)
  · have hhigh : m.length ≤ i := Nat.le_of_not_lt hlow
    rw [sealed, List.set_append_right _ _ hhigh] at hset
    rw [sealed, List.getElem?_append_right hhigh] at hne
    obtain ⟨rfl, hc⟩ := List.append_inj hset hlen
    intro heq
    rw [heq, fieldBytes_rdle4] at hc hne
    refine hne ?_
    conv_lhs => rw [hc]
    exact List.getElem?_set_self (by rw [Vector.length_toList]; omega)

theorem exists_vector_toList {n : Nat} {bs : List Byte} (h : bs.length = n) :
    ∃ v : Vector Byte n, v.toList = bs :=
  ⟨⟨bs.toArray, h⟩, rfl⟩

end Changed

section Detected

variable {s : State} {r : List ReadAnswer} {rest : List Event} {m : List Byte} {i : Nat} {b : Byte}

/-! ### The outcome -/

/-- A checksum check ended the command: `c` tells which (rules R80, R86, R104). -/
def MismatchFound (t : State) (c : Bool) : Prop :=
  t.status.busy = false ∧ t.status.done = true ∧ t.status.rc = .checksumMismatch ∧
  t.status.valid = false ∧ t.status.crcsel = c ∧ t.crcStored ≠ t.crcComputed

theorem lengthCheck_mismatchFound (hv : s.status.valid = false)
    (hne : mask (crc32c (hdrLen s.hdr).toList) ≠ rdle4 (hdrCrc s.hdr)) :
    MismatchFound (lengthCheck s) false := by
  rcases lengthCheck_cases s with ⟨-, e⟩ | ⟨heq, -⟩
  · rw [e]
    exact ⟨rfl, rfl, rfl, hv, rfl, hne.symm⟩
  · exact absurd heq hne

theorem dataCheck_mismatchFound (hv : s.status.valid = false)
    (hne : mask (s.acc ^^^ 0xFFFFFFFF#32) ≠ rdle4 s.ftr) : MismatchFound (dataCheck s) true := by
  rcases dataCheck_cases s with ⟨-, e⟩ | ⟨heq, -⟩
  · rw [e]
    exact ⟨rfl, rfl, rfl, hv, rfl, hne.symm⟩
  · exact absurd heq hne

theorem MismatchFound.setAgenda {t : State} {c : Bool} (h : MismatchFound t c) (ag : List Event) :
    MismatchFound { t with agenda := ag } c := h

theorem lengthCheck_agenda (s : State) : (lengthCheck s).agenda = s.agenda := by
  obtain ⟨-, -, -, -, hag⟩ := operands_eq_of_hostSide (lengthCheck_hostSide s)
  exact hag

/-- A header with one byte changed ends the command at the length check, and the turns left change
nothing (rules R80, R104). -/
theorem AtFirstByte.run_changed_header (h : AtFirstByte s) {l : Word64} {n : Nat} (hi : i < 12)
    (hne : (header l).toList[i]? ≠ some b)
    (hrx : s.rx = ((header l).toList.set i b).map .byte ++ r)
    (hag : s.agenda = List.replicate (12 + n) .sequencer ++ rest) :
    ∃ t, run (12 + n) s = .next t ∧ MismatchFound t false := by
  obtain ⟨d, hd⟩ := exists_vector_toList (n := 12) (bs := (header l).toList.set i b) (by simp)
  rw [← hd] at hrx
  rw [List.replicate_add, List.append_assoc] at hag
  rw [header_toList] at hne hd
  have hsplit : (hdrLen d).toList ++ (hdrCrc d).toList = (sealed (lengthBytes l)).set i b := by
    rw [← joinHdr_toList, joinHdr_hdrLen_hdrCrc, hd]
  obtain ⟨t, hrun, ht, hagt⟩ : ∃ t, run 12 s = .next t ∧ MismatchFound t false ∧
      t.agenda = List.replicate n .sequencer ++ rest :=
    ⟨_, h.run_header hrx hag,
      lengthCheck_mismatchFound h.valid (checksum_ne_of_set hsplit hi hne), lengthCheck_agenda _⟩
  have hfree : t.status.busy = false := by
    obtain ⟨hfree, -⟩ := ht
    exact hfree
  exact ⟨_, (run_add n hrun).trans (run_free hfree hagt), ht.setAgenda rest⟩

/-- A payload or footer with one byte changed ends the command at the data check (rule R86). -/
theorem AtFirstByte.run_changed_data (h : AtFirstByte s) {l : Word64} (hlen : m.length = l.toNat)
    (hfits : m.length ≤ s.pbufBytes) (hi : i < m.length + 4) (hne : (sealed m)[i]? ≠ some b)
    (hrx : s.rx = ((header l).toList ++ (sealed m).set i b).map .byte ++ r)
    (hag : s.agenda = List.replicate (12 + m.length + 4) .sequencer ++ rest) :
    ∃ t, run (12 + m.length + 4) s = .next t ∧ MismatchFound t true := by
  have hq : (((sealed m).set i b).take m.length).length = m.length := by simp
  obtain ⟨f, hf⟩ := exists_vector_toList (n := 4) (bs := ((sealed m).set i b).drop m.length)
    (by simp)
  have hsplit : ((sealed m).set i b).take m.length ++ f.toList = (sealed m).set i b := by
    rw [hf, List.take_append_drop]
  rw [← hsplit] at hrx
  rw [← hq] at hag hlen hfits ⊢
  exact ⟨_, h.run_frame hlen hfits hrx hag,
    dataCheck_mismatchFound h.valid (checksum_ne_of_set hsplit hi hne)⟩

end Detected

/-- Settles O57: the changed byte is in the header, which the length check refuses, or in the payload or
the footer, which the data check refuses. -/
theorem oneChangedByteOfAFrameIsDetected : Obligations.OneChangedByteOfAFrameIsDetected := by
  intro s p i b after rest hb hfits hin hne hrx hag
  change ∃ t, run (1 + (12 + p.length + 4)) s = .next t ∧ MismatchFound t (decide (12 ≤ i))
  rw [Nat.add_comm, run_succ_of_next _ (step_issueDecode hag hb)]
  have hstart := decodeIssue_atFirstByte
    ({ s with agenda := List.replicate (12 + p.length + 4) Event.sequencer ++ rest }.respond .ok)
  have hlen : p.length = (BitVec.ofNat 64 p.length).toNat := by
    have hcap := pbufBytes_lt s
    rw [BitVec.toNat_ofNat, Nat.mod_eq_of_lt (by omega)]
  have hhdr : (header (BitVec.ofNat 64 p.length)).toList.length = 12 := Vector.length_toList
  rw [frame_eq] at hin hne hrx
  by_cases hi : i < 12
  · rw [List.getElem?_append_left (by omega)] at hne
    rw [List.set_append_left _ _ (by omega), List.map_append, List.append_assoc] at hrx
    rw [decide_eq_false (by omega), Nat.add_assoc]
    exact hstart.run_changed_header hi hne hrx (by rw [Nat.add_assoc]; rfl)
  · have hi' : i < 12 + (p.length + 4) := by
      simpa [hhdr, Nat.add_assoc] using hin
    rw [List.getElem?_append_right (by omega), hhdr] at hne
    rw [List.set_append_right _ _ (by omega), hhdr] at hrx
    rw [decide_eq_true (by omega)]
    exact hstart.run_changed_data hlen hfits (by omega) hne hrx rfl

end Sys2Proof.Machine

/-! # ENCODE (rules R90 to R98) -/

namespace Sys2Proof.Machine

section Encode

variable {s : State} {b : Byte} {r : List WriteAnswer}

/-! ## One step, by the channel's answer and the place -/

theorem writingStep_ok {onOk : State → State} (htx : s.tx = .ok :: r) :
    writingStep b onOk s = .next (onOk { s with tx := r, sent := s.sent ++ [b] }) := by
  simp only [writingStep, State.chanWrite, htx]

theorem writingStep_fail {onOk : State → State} (htx : s.tx = .fail :: r) :
    writingStep b onOk s = .next ({ s with tx := r }.finish .ioFailure) := by
  simp only [writingStep, State.chanWrite, htx]

/-- In the writing places ENCODE is the command in progress (rule R29). -/
theorem exec_encode_eq_sequencerTurn (hb : s.status.busy = true) (hq : s.seq.Writes) :
    exec .encode s = sequencerTurn s := by
  refine (sequencerTurn_of_inProgress hb ?_).symm
  rcases hq with hq | hq | hq <;> simp only [inProgress, hq]

/-- In ENC_HDR the byte on offer is HDR[HDR_CNT] (rule R93). -/
theorem exec_encode_encHdr (hb : s.status.busy = true) (hq : s.seq = .encHdr)
    (hbyte : s.hdr[s.status.hdrCnt.toNat]? = some b) :
    exec .encode s = writingStep b (fun t => headerSent t.countHdr) s := by
  rw [exec_encode_eq_sequencerTurn hb (.inl hq), sequencerTurn_encHdr hb hq, encodeHeader, hbyte]

/-- In ENC_PAY the byte on offer is PBUF[PAY_CNT] (rule R94). -/
theorem exec_encode_encPay (hb : s.status.busy = true) (hq : s.seq = .encPay)
    (hcap : s.payCnt.toNat < s.pbufBytes) (hbyte : s.mem.read s.payCnt.toNat = some b) :
    exec .encode s = writingStep b (fun t => payloadSent t.countPay) s := by
  rw [exec_encode_eq_sequencerTurn hb (.inr (.inl hq)), sequencerTurn_encPay hb hq, encodePayload,
    if_pos hcap, hbyte]

/-- In ENC_FTR the byte on offer is FTR[FTR_CNT] (rule R95). -/
theorem exec_encode_encFtr (hb : s.status.busy = true) (hq : s.seq = .encFtr)
    (hbyte : s.ftr[s.status.ftrCnt.toNat]? = some b) :
    exec .encode s = writingStep b (fun t => footerSent t.countFtr) s := by
  rw [exec_encode_eq_sequencerTurn hb (.inr (.inr hq)), sequencerTurn_encFtr hb hq, encodeFooter,
    hbyte]

/-- Where a scratch buffer has a byte to offer, its counter is in range. -/
theorem lt_of_getElem?_vector {n i : Nat} {v : Vector Byte n} (h : v[i]? = some b) : i < n := by
  obtain ⟨hi, -⟩ := Vector.getElem?_eq_some_iff.mp h
  exact hi

theorem headerSent_countHdr (hq : s.seq = .encHdr) (hcnt : s.status.hdrCnt.toNat < 12) :
    headerSent s.countHdr = { s.countHdr with
      seq := if s.status.hdrCnt.toNat < 11 then .encHdr
             else if s.frmLen = 0 then .encFtr else .encPay } := by
  by_cases h : s.status.hdrCnt.toNat < 11
  · have hne : s.countHdr.status.hdrCnt ≠ 12 := by
      rw [countHdr_status]
      bv_omega
    rw [headerSent, if_neg hne, if_pos h, ← hq]
    rfl
  · have hlast : s.countHdr.status.hdrCnt = 12 := by
      rw [countHdr_status]
      bv_omega
    rw [headerSent, if_pos hlast, if_neg h]
    rfl

theorem payloadSent_countPay (hq : s.seq = .encPay) (hlt : s.payCnt.toNat < s.frmLen.toNat) :
    payloadSent s.countPay = { s.countPay with
      seq := if s.payCnt.toNat + 1 = s.frmLen.toNat then .encFtr else .encPay } := by
  by_cases h : s.payCnt.toNat + 1 = s.frmLen.toNat
  · have hlast : s.countPay.payCnt = s.countPay.frmLen := by
      rw [countPay_payCnt, countPay_frmLen]
      bv_omega
    rw [payloadSent, if_pos hlast, if_pos h]
  · have hne : s.countPay.payCnt ≠ s.countPay.frmLen := by
      rw [countPay_payCnt, countPay_frmLen]
      bv_omega
    rw [payloadSent, if_neg hne, if_neg h, ← hq]
    rfl

theorem footerSent_countFtr (hcnt : s.status.ftrCnt.toNat < 4) :
    footerSent s.countFtr =
      if s.status.ftrCnt.toNat < 3 then s.countFtr else s.countFtr.ended .ok := by
  by_cases h : s.status.ftrCnt.toNat < 3
  · have hne : s.countFtr.status.ftrCnt ≠ 4 := by
      rw [countFtr_status]
      bv_omega
    rw [footerSent, if_neg hne, if_pos h]
  · have hlast : s.countFtr.status.ftrCnt = 4 := by
      rw [countFtr_status]
      bv_omega
    rw [footerSent, if_pos hlast, if_neg h]
    rfl

/-- What ENC_START fixes of the payload `p` (rule R92). -/
def frameToSend (s : State) (p : List Byte) : State :=
  { s with frmLen := s.argLen, payCnt := 0, hdr := header s.argLen, ftr := footer p, seq := .encHdr }

theorem exec_encode_encStart {p : List Byte} (hb : s.status.busy = true) (hq : s.seq = .encStart)
    (hlen : p.length = s.argLen.toNat) (hfits : s.argLen.toNat ≤ s.pbufBytes) (hp : s.holds p) :
    exec .encode s = .next (frameToSend s p) := by
  rw [exec_encode_start hb hq, encodeStart, if_neg (Nat.not_lt.mpr hfits), payload_of_holds hlen hp]
  rfl

end Encode

/-- Settles O31: header and footer are those of rule R11, as bytes. -/
theorem encodeFixesTheFrame : Obligations.EncodeFixesTheFrame := by
  intro s p hb hq hlen hfits hp
  exact ⟨_, exec_encode_encStart hb hq hlen hfits hp, rfl, joinHdr_toList _ _, le4_toList _⟩

/-- Settles O32: the length is checked before PBUF is read. -/
theorem encodeRefusesALengthAbovePbuf : Obligations.EncodeRefusesALengthAbovePbuf := by
  intro s hb hq hlen
  rw [exec_encode_start hb hq, encodeStart, if_pos hlen]
  rfl

/-- Settles O33: a byte on offer says that HDR_CNT is below 12. -/
theorem encodeCommitsAHeaderByte : Obligations.EncodeCommitsAHeaderByte := by
  intro s b r hb hq htx hbyte
  rw [exec_encode_encHdr hb hq hbyte, writingStep_ok htx,
    headerSent_countHdr (by exact hq) (by exact lt_of_getElem?_vector hbyte)]
  rfl

/-- Settles O34: the byte is the last or another. -/
theorem encodeCommitsAPayloadByte : Obligations.EncodeCommitsAPayloadByte := by
  intro s b r hb hq htx hlt hfits hbyte
  rw [exec_encode_encPay hb hq (hlt.trans_le hfits) hbyte, writingStep_ok htx,
    payloadSent_countPay (by exact hq) (by exact hlt)]
  rfl

/-- Settles O35: a byte on offer says that FTR_CNT is below 4. -/
theorem encodeCommitsAFooterByte : Obligations.EncodeCommitsAFooterByte := by
  intro s b r hb hq htx hbyte
  rw [exec_encode_encFtr hb hq hbyte, writingStep_ok htx,
    footerSent_countFtr (by exact lt_of_getElem?_vector hbyte)]
  rfl

/-- Settles O36: whatever the byte on offer, the answer Fail is met alike in every writing place. -/
theorem encodeOnChannelFailureEnds : Obligations.EncodeOnChannelFailureEnds := by
  intro s r hb htx hplace
  rcases hplace with ⟨hq, hcnt⟩ | ⟨hq, hcap, hwritten⟩ | ⟨hq, hcnt⟩
  · rw [exec_encode_encHdr hb hq (Vector.getElem?_eq_getElem hcnt), writingStep_fail htx]
    rfl
  · obtain ⟨b, hbyte⟩ := Option.isSome_iff_exists.mp hwritten
    rw [exec_encode_encPay hb hq hcap hbyte, writingStep_fail htx]
    rfl
  · rw [exec_encode_encFtr hb hq (Vector.getElem?_eq_getElem hcnt), writingStep_fail htx]
    rfl

end Sys2Proof.Machine

/-! # Whole frames (rules R97, R98) -/

namespace Sys2Proof.Machine

/-- A length that fits PBUF is a 64-bit word (rules R6, R20). -/
theorem toNat_ofNat_of_le_pbufBytes {s : State} {n : Nat} (h : n ≤ s.pbufBytes) :
    (BitVec.ofNat 64 n).toNat = n := by
  have hcap := pbufBytes_lt s
  rw [BitVec.toNat_ofNat, Nat.mod_eq_of_lt (by omega)]

/-! ## DECODE of a frame (rule R98) -/

/-- PBUF holds the bytes written at its start (rule R10). -/
theorem Memory.read_writeBytes_zero (m : Memory) (p : List Byte) (i : Fin p.length) :
    (m.writeBytes 0 p).read i = some p[i] := by
  rw [Memory.read_writeBytes, if_pos ⟨Nat.zero_le _, by omega⟩]
  exact List.getElem?_eq_getElem i.isLt

theorem Memory.read_writeBytes_of_length_le (m : Memory) {p : List Byte} {i : Nat}
    (h : p.length ≤ i) : (m.writeBytes 0 p).read i = m.read i := by
  rw [Memory.read_writeBytes, if_neg (by omega)]

/-- The payload's own footer passes the data check (rules R11, R86). -/
theorem dataCheck_frameRead_footer (s : State) (l : Word64) (p : List Byte) :
    dataCheck (frameRead s l p (footer p)) =
      (accept (compareData (frameRead s l p (footer p)))).finish .ok := by
  rcases dataCheck_cases (frameRead s l p (footer p)) with ⟨hne, -⟩ | ⟨-, e⟩
  · exact absurd (rdle4_le4 (mask (crc32c p))).symm hne
  · exact e

/-- STATUS of an accepted record: DONE, VALID, CRCSEL and both counters full (rules R16, R98). -/
theorem statusWord_of_accepted :
    Status.word { busy := false, done := true, valid := true, ovr := false, carry := false,
                  crcsel := true, rc := .ok, hdrCnt := 12, ftrCnt := 4 } = 0x0004C026#32 := by
  decide

/-- Settles O56: the run of a DECODE over a frame, and the data check that its footer passes. -/
theorem decodeOfAFrameRecoversThePayload : Obligations.DecodeOfAFrameRecoversThePayload := by
  intro s p after rest hb hfits hrx hag
  have hlen := toNat_ofNat_of_le_pbufBytes hfits
  have hissue := step_issueDecode hag hb
  have hstart := decodeIssue_atFirstByte
    ({ s with agenda := List.replicate (12 + p.length + 4) Event.sequencer ++ rest }.respond .ok)
  rw [frame, List.append_assoc] at hrx
  have hrun := hstart.run_frame hlen.symm hfits hrx rfl
  rw [dataCheck_frameRead_footer] at hrun
  rw [Nat.add_comm, run_succ_of_next _ hissue]
  exact ⟨_, hrun, rfl, rfl, statusWord_of_accepted, hlen, hlen, s.mem.read_writeBytes_zero p,
    fun _ hi => s.mem.read_writeBytes_of_length_le hi, rfl, rfl, rfl⟩

/-! ## ENCODE of a payload (rule R97) -/

section Sends

variable {s : State} {r : List WriteAnswer} {rest : List Event} {x : List Byte}

/-- `s` with the agenda `ag`, an output channel that will answer `tx`, and `x` committed. -/
def State.facing (s : State) (ag : List Event) (tx : List WriteAnswer) (x : List Byte) : State :=
  { s with agenda := ag, tx := tx, sent := x }

/-- Turns that commit the bytes `bs` one by one, where `f k` is the machine after `k` of them. -/
theorem run_commits {f : Nat → State} {bs : List Byte} {n : Nat} (hn : bs.length = n)
    (hturn : ∀ (k : Nat) (hk : k < bs.length) (ag : List Event) (r : List WriteAnswer)
      (x : List Byte), sequencerTurn ((f k).facing ag (.ok :: r) x) =
        .next ((f (k + 1)).facing ag r (x ++ [bs[k]]))) :
    run n ((f 0).facing (List.replicate n Event.sequencer ++ rest)
      (List.replicate n WriteAnswer.ok ++ r) x) = .next ((f n).facing rest r (x ++ bs)) := by
  subst hn
  induction bs generalizing f x with
  | nil => simp
  | cons b bs ih =>
    have hfirst : step ((f 0).facing
        (.sequencer :: (List.replicate bs.length Event.sequencer ++ rest))
        (.ok :: (List.replicate bs.length WriteAnswer.ok ++ r)) x) = _ :=
      hturn 0 (Nat.succ_pos _) _ _ x
    have hrest := ih (f := fun k => f (k + 1)) (x := x ++ [b])
      fun k hk => hturn (k + 1) (Nat.succ_lt_succ hk)
    rw [List.append_assoc] at hrest
    exact (run_succ_of_next _ hfirst).trans hrest

/-- The ENCODE of `s` after `k` bytes of the header (rule R93). -/
def headerSentUpTo (s : State) (k : Nat) : State :=
  { s with status := { s.status with hdrCnt := BitVec.ofNat 4 k },
           seq := if k < 12 then .encHdr else if 0 = s.frmLen.toNat then .encFtr else .encPay }

/-- The ENCODE of `s` after `k` bytes of the payload (rule R94). -/
def payloadSentUpTo (s : State) (k : Nat) : State :=
  { s with payCnt := BitVec.ofNat 64 k,
           seq := if k = s.frmLen.toNat then .encFtr else .encPay }

/-- The ENCODE of `s` after `k` bytes of the footer (rule R95). -/
def footerSentUpTo (s : State) (k : Nat) : State :=
  let u := { s with status := { s.status with ftrCnt := BitVec.ofNat 3 k } }
  if k < 4 then u else u.ended .ok

theorem sequencerTurn_headerSentUpTo {k : Nat} (hb : s.status.busy = true) (hk : k < 12)
    (ag : List Event) (r : List WriteAnswer) (x : List Byte) :
    sequencerTurn ((headerSentUpTo s k).facing ag (.ok :: r) x) =
      .next ((headerSentUpTo s (k + 1)).facing ag r (x ++ [s.hdr[k]])) := by
  have hq : (headerSentUpTo s k).seq = .encHdr := if_pos hk
  have hcnt : (BitVec.ofNat 4 k).toNat = k := Nat.mod_eq_of_lt (by omega)
  have hbyte : s.hdr[(BitVec.ofNat 4 k).toNat]? = some s.hdr[k] := by
    rw [hcnt, Vector.getElem?_eq_getElem hk]
  have hseq : (if (BitVec.ofNat 4 k).toNat < 11 then Seq.encHdr
      else if s.frmLen = 0 then .encFtr else .encPay) = (headerSentUpTo s (k + 1)).seq :=
    if_congr (by omega) rfl (if_congr (by bv_omega) rfl rfl)
  have hexec : exec .encode ((headerSentUpTo s k).facing ag (.ok :: r) x) = .next (State.facing
      { s with status := { s.status with hdrCnt := BitVec.ofNat 4 k + 1 },
               seq := if (BitVec.ofNat 4 k).toNat < 11 then .encHdr
                      else if s.frmLen = 0 then .encFtr else .encPay } ag r (x ++ [s.hdr[k]])) :=
    encodeCommitsAHeaderByte _ _ r hb hq rfl hbyte
  rw [← exec_encode_eq_sequencerTurn (by exact hb) (.inl (by exact hq)), hexec, hseq,
    headerSentUpTo, BitVec.ofNat_add]
  rfl

theorem sequencerTurn_payloadSentUpTo {k : Nat} {p : List Byte} (hb : s.status.busy = true)
    (hlen : p.length = s.frmLen.toNat) (hfits : s.frmLen.toNat ≤ s.pbufBytes) (hp : s.holds p)
    (hk : k < p.length) (ag : List Event) (r : List WriteAnswer) (x : List Byte) :
    sequencerTurn ((payloadSentUpTo s k).facing ag (.ok :: r) x) =
      .next ((payloadSentUpTo s (k + 1)).facing ag r (x ++ [p[k]])) := by
  have hcnt : (BitVec.ofNat 64 k).toNat = k := toNat_ofNat_of_le_pbufBytes (s := s) (by omega)
  have hlt : (BitVec.ofNat 64 k).toNat < s.frmLen.toNat := by omega
  have hq : (payloadSentUpTo s k).seq = .encPay := if_neg (by omega)
  have hbyte : s.mem.read (BitVec.ofNat 64 k).toNat = some p[k] := by
    rw [hcnt]
    exact hp ⟨k, hk⟩
  have hexec := encodeCommitsAPayloadByte ((payloadSentUpTo s k).facing ag (.ok :: r) x) _ r hb hq
    rfl hlt hfits hbyte
  rw [exec_encode_eq_sequencerTurn (by exact hb) (.inr (.inl (by exact hq)))] at hexec
  simpa [payloadSentUpTo, State.facing, hcnt, BitVec.ofNat_add] using hexec

theorem sequencerTurn_footerSentUpTo {k : Nat} (hb : s.status.busy = true) (hq : s.seq = .encFtr)
    (hk : k < 4) (ag : List Event) (r : List WriteAnswer) (x : List Byte) :
    sequencerTurn ((footerSentUpTo s k).facing ag (.ok :: r) x) =
      .next ((footerSentUpTo s (k + 1)).facing ag r (x ++ [s.ftr[k]])) := by
  have hcnt : (BitVec.ofNat 3 k).toNat = k := Nat.mod_eq_of_lt (by omega)
  have hbyte : s.ftr[(BitVec.ofNat 3 k).toNat]? = some s.ftr[k] := by
    rw [hcnt, Vector.getElem?_eq_getElem hk]
  have hexec := encodeCommitsAFooterByte (State.facing { s with
    status := { s.status with ftrCnt := BitVec.ofNat 3 k } } ag (.ok :: r) x) _ r hb hq rfl hbyte
  rw [exec_encode_eq_sequencerTurn (by exact hb) (.inr (.inr (by exact hq)))] at hexec
  rw [footerSentUpTo, if_pos hk, hexec]
  simp only [State.facing, hcnt]
  split
  · rw [footerSentUpTo, if_pos (by omega), BitVec.ofNat_add]
    rfl
  · rw [footerSentUpTo, if_neg (by omega), BitVec.ofNat_add]
    rfl

/-- An ENCODE that fixed the length of `p` in PBUF and has sent nothing (rules R92, R101). -/
structure ReadyToSend (s : State) (p : List Byte) : Prop where
  busy : s.status.busy = true
  seq : s.seq = .encHdr
  hdrCnt : s.status.hdrCnt = 0
  payCnt : s.payCnt = 0
  ftrCnt : s.status.ftrCnt = 0
  length : p.length = s.frmLen.toNat
  fits : s.frmLen.toNat ≤ s.pbufBytes
  holds : s.holds p

variable {p : List Byte}

/-- The twelve header bytes (rule R93). -/
theorem ReadyToSend.run_header (h : ReadyToSend s p) :
    run 12 (s.facing (List.replicate 12 Event.sequencer ++ rest)
      (List.replicate 12 WriteAnswer.ok ++ r) x) =
    .next ((headerSentUpTo s 12).facing rest r (x ++ s.hdr.toList)) := by
  have hzero : headerSentUpTo s 0 = s := by
    rw [headerSentUpTo, ← show s.status.hdrCnt = BitVec.ofNat 4 0 from h.hdrCnt,
      if_pos (by decide), ← h.seq]
  have hrun := run_commits (f := headerSentUpTo s) (rest := rest) (r := r) (x := x)
    Vector.length_toList fun k hk => sequencerTurn_headerSentUpTo h.busy (by simpa using hk)
  rwa [hzero] at hrun

/-- The payload bytes, none where L = 0 (rules R93, R94). -/
theorem ReadyToSend.run_payload (h : ReadyToSend s p) :
    run p.length ((headerSentUpTo s 12).facing (List.replicate p.length Event.sequencer ++ rest)
      (List.replicate p.length WriteAnswer.ok ++ r) x) =
    .next ((payloadSentUpTo (headerSentUpTo s 12) p.length).facing rest r (x ++ p)) := by
  have hzero : payloadSentUpTo (headerSentUpTo s 12) 0 = headerSentUpTo s 12 := by
    rw [payloadSentUpTo, ← show s.payCnt = BitVec.ofNat 64 0 from h.payCnt]
    rfl
  have hrun := run_commits (f := payloadSentUpTo (headerSentUpTo s 12)) (rest := rest) (r := r)
    (x := x) rfl fun k => sequencerTurn_payloadSentUpTo h.busy h.length h.fits h.holds
  rwa [hzero] at hrun

/-- The four footer bytes, which end the command (rule R95). -/
theorem run_sendFooter (hb : s.status.busy = true) (hq : s.seq = .encFtr)
    (hftr : s.status.ftrCnt = 0) :
    run 4 (s.facing (List.replicate 4 Event.sequencer ++ rest)
      (List.replicate 4 WriteAnswer.ok ++ r) x) =
    .next ((footerSentUpTo s 4).facing rest r (x ++ s.ftr.toList)) := by
  have hzero : footerSentUpTo s 0 = s := by
    rw [footerSentUpTo, ← show s.status.ftrCnt = BitVec.ofNat 3 0 from hftr]
    rfl
  have hrun := run_commits (f := footerSentUpTo s) (rest := rest) (r := r) (x := x)
    Vector.length_toList fun k hk => sequencerTurn_footerSentUpTo hb hq (by simpa using hk)
  rwa [hzero] at hrun

/-- An ENCODE whose frame is fixed sends header, payload and footer, and ends (rules R93 to R95). -/
theorem ReadyToSend.run_frame (h : ReadyToSend s p) :
    run (12 + p.length + 4) (s.facing (List.replicate (12 + p.length + 4) Event.sequencer ++ rest)
      (List.replicate (12 + p.length + 4) WriteAnswer.ok ++ r) x) = .next (State.facing
        (State.ended { s with status := { s.status with hdrCnt := 12, ftrCnt := 4 },
                              payCnt := BitVec.ofNat 64 p.length } .ok)
        rest r (x ++ (s.hdr.toList ++ p ++ s.ftr.toList))) := by
  simp only [List.replicate_add, List.append_assoc]
  rw [Nat.add_assoc, run_add _ h.run_header, run_add _ h.run_payload,
    run_sendFooter (by exact h.busy) (if_pos h.length) (by exact h.ftrCnt)]
  simp only [List.append_assoc]
  rfl

end Sends

/-- STATUS of an ENCODE that committed its frame: DONE and both counters full (rules R16, R97). -/
theorem statusWord_of_sent :
    Status.word { busy := false, done := true, valid := false, ovr := false, carry := false,
                  crcsel := false, rc := .ok, hdrCnt := 12, ftrCnt := 4 } = 0x0004C002#32 := by
  decide

theorem step_issueEncode {s : State} {rest : List Event}
    (h : s.agenda = .host (.write 0x000#32 .b4 0x00000007#32) :: rest)
    (hb : s.status.busy = false) :
    step s = .next (({ s with agenda := rest }.respond .ok).latch .encode .encStart) := by
  have hd : decodeWord 0x00000007#32 = .command .encode := by decide
  rw [step_cmdWrite h, cmdWrite_command (by exact hb) hd]
  exact exec_issue .encode _ hb

/-- An ENCODE in ENC_START of a written payload fixes its frame, sends it and ends (rules R92 to
R95). -/
theorem run_encStart {s : State} {p : List Byte} {r : List WriteAnswer} {rest : List Event}
    (hb : s.status.busy = true) (hq : s.seq = .encStart) (hhdr : s.status.hdrCnt = 0)
    (hftr : s.status.ftrCnt = 0) (hlen : p.length = s.argLen.toNat)
    (hfits : s.argLen.toNat ≤ s.pbufBytes) (hp : s.holds p)
    (htx : s.tx = List.replicate (12 + p.length + 4) WriteAnswer.ok ++ r)
    (hag : s.agenda = List.replicate (12 + p.length + 4 + 1) Event.sequencer ++ rest) :
    run (12 + p.length + 4 + 1) s = .next (State.facing
      (State.ended { frameToSend s p with
        status := { s.status with hdrCnt := 12, ftrCnt := 4 },
        payCnt := BitVec.ofNat 64 p.length } .ok)
      rest r (s.sent ++ ((header s.argLen).toList ++ p ++ (footer p).toList))) := by
  have hplace : inProgress s = some .encode := by simp only [inProgress, hq]
  have hready : ReadyToSend (frameToSend s p) p := ⟨hb, rfl, hhdr, rfl, hftr, hlen, hfits, hp⟩
  have hsend := hready.run_frame (rest := rest) (r := r) (x := s.sent)
  have hturn (ag : List Event) : sequencerTurn { s with agenda := ag } =
      .next (frameToSend { s with agenda := ag } p) := by
    rw [sequencerTurn_of_inProgress (by exact hb) (by exact hplace)]
    exact exec_encode_encStart hb hq hlen hfits hp
  rw [← htx] at hsend
  obtain ⟨hrun, -⟩ := run_sequencer hag (hturn _)
  exact hrun.trans hsend

theorem frame_length (p : List Byte) : (frame p).length = recordLength p.length := by
  simp [frame, recordLength, Nat.add_assoc]

/-- Settles O55: the issue, ENC_START, and the turns that send the frame it fixed. -/
theorem encodeCommitsExactlyTheFrame : Obligations.EncodeCommitsExactlyTheFrame := by
  intro s p after rest hb hlen hfits hp htx hag
  have hturns : 1 + 12 + p.length + 4 = 12 + p.length + 4 + 1 := by omega
  have hl : BitVec.ofNat 64 p.length = s.argLen := by
    rw [hlen, BitVec.ofNat_toNat, BitVec.setWidth_eq]
  rw [hturns] at hag
  rw [hturns, Nat.add_comm, run_succ_of_next _ (step_issueEncode hag hb),
    run_encStart (by rfl) (by rfl) (by rfl) (by rfl) (by exact hlen) (by exact hlen ▸ hfits)
      (by exact hp) (by exact htx) (by rfl)]
  refine ⟨_, rfl, ?_, frame_length p, rfl, rfl, rfl, rfl, rfl, rfl, rfl, statusWord_of_sent, rfl,
    hl⟩
  rw [frame, hl]
  rfl

end Sys2Proof.Machine

/-! # Issue, illegal words, completion and the interrupt (rules R101 to R107) -/

namespace Sys2Proof.Machine

/-! ## CMD writes (rules R101 to R103) -/

theorem cmdWrite_busy {s : State} (w : Word) (hb : s.status.busy = true) :
    cmdWrite s w = .next s.dropCommand := if_pos hb

theorem cmdWrite_illegal {s : State} {w : Word} {e : DecodeError} (hb : s.status.busy = false)
    (hw : decodeWord w = .illegal e) : cmdWrite s w = .next s.illegalCommand := by
  simp only [cmdWrite, hb, hw, Bool.false_eq_true, if_false]

theorem decodeTableWord_eq_some_iff {n w : Nat} {i : Instr} :
    decodeTableWord n w = some i ↔ decodeWord (tableWord n w) = .command i := by
  unfold decodeTableWord
  cases decodeWord (tableWord n w) <;> simp

/-- The write of a command's word to CMD of a free machine (rule R101). -/
theorem step_issue {s : State} {rest : List Event} {w : Word} {i : Instr}
    (hag : s.agenda = .host (.write 0x000#32 .b4 w) :: rest) (hb : s.status.busy = false)
    (hw : decodeWord w = .command i) :
    step s = exec i { s with agenda := rest, response := some .ok } :=
  (step_cmdWrite hag).trans (cmdWrite_command (by exact hb) hw)

/-- Settles O4: `withFetchWord` sets up the write that `step_issue` describes. -/
theorem stepIssuesTheDecodedCommand : Obligations.StepIssuesTheDecodedCommand :=
  ⟨fun _ _ _ _ => step_issue, fun s w _ hw =>
    step_issue (s := s.withFetchWord 32 w) rfl rfl (decodeTableWord_eq_some_iff.mp hw)⟩

/-- A word whose RSVD is not 0 or whose OPC is unassigned is no command's (rule R60). -/
theorem decodeWord_illegal_of_fields {w : Word} (h : w.extractLsb' 8 24 ≠ 0 ∨
    (w.extractLsb' 0 8).toNat = 0 ∨ 8 ≤ (w.extractLsb' 0 8).toNat) :
    ∃ e, decodeWord w = .illegal e := by
  rcases decodeWord_cases w with ⟨-, e⟩ | ⟨hr, i, ho, -⟩ | ⟨-, -, e⟩
  · exact ⟨_, e⟩
  · have hrange := opcode_range i
    rw [ho] at h
    rcases h with hne | hout
    · exact absurd hr hne
    · omega
  · exact ⟨_, e⟩

/-- Settles O8: the illegal case of a CMD write to a free machine. -/
theorem illegalWordEndsAtOnce : Obligations.IllegalWordEndsAtOnce := by
  intro s rest w hag hb hfields
  obtain ⟨e, hw⟩ := decodeWord_illegal_of_fields hfields
  refine ⟨_, (step_cmdWrite hag).trans (cmdWrite_illegal (by exact hb) hw), rfl, ?_⟩
  simp only [State.illegalCommand, State.respond, Status.clearForIssue, hb]

/-- Settles O9: the busy case of a CMD write, whatever the word. -/
theorem cmdWriteWhileBusyIsDropped : Obligations.CmdWriteWhileBusyIsDropped :=
  fun _ _ w hag hb => (step_cmdWrite hag).trans (cmdWrite_busy w (by exact hb))

/-! ## The end of a command (rules R104, R112, R113) -/

/-- Settles O11: each turn of a free machine changes nothing. -/
theorem freeMachineTakesNoSequencerStep : Obligations.FreeMachineTakesNoSequencerStep :=
  fun _ _ _ hb hag => run_free hb hag

section Finish

variable {s t : State}

/-- The command goes on, or the state is what finish left of another (rule R104). -/
def State.RunsOrFinished (s : State) : Prop :=
  s.status.busy = true ∨ ∃ u rc, s = State.finish u rc

theorem finish_runsOrFinished (s : State) (rc : ResultCode) : (s.finish rc).RunsOrFinished :=
  .inr ⟨s, rc, rfl⟩

theorem State.RunsOrFinished.finished (h : s.RunsOrFinished) (hfree : s.status.busy = false) :
    s.status.done = true ∧ s.seq = .idle := by
  rcases h with hb | ⟨u, rc, rfl⟩
  · exact absurd hb (by simp [hfree])
  · exact ⟨rfl, rfl⟩

theorem capacityCheck_runsOrFinished (hb : s.status.busy = true) :
    (capacityCheck s).RunsOrFinished := by
  rcases capacityCheck_cases s with ⟨-, e⟩ | ⟨-, e⟩ | ⟨-, -, e⟩ <;> rw [e]
  · exact finish_runsOrFinished _ _
  · exact .inl hb
  · exact .inl hb

theorem lengthCheck_runsOrFinished (hb : s.status.busy = true) :
    (lengthCheck s).RunsOrFinished := by
  rcases lengthCheck_cases s with ⟨-, e⟩ | ⟨-, e⟩ <;> rw [e]
  · exact finish_runsOrFinished _ _
  · exact capacityCheck_runsOrFinished hb

theorem dataCheck_runsOrFinished (s : State) : (dataCheck s).RunsOrFinished := by
  rcases dataCheck_cases s with ⟨-, e⟩ | ⟨-, e⟩ <;> rw [e] <;> exact finish_runsOrFinished _ _

theorem headerByte_runsOrFinished {b : Byte} (hb : s.status.busy = true)
    (h : headerByte s b = .next t) : t.RunsOrFinished := by
  unfold headerByte headerStored at h
  split at h <;> cases h
  split
  · exact lengthCheck_runsOrFinished hb
  · exact .inl hb

theorem payloadByte_runsOrFinished {b : Byte} (hb : s.status.busy = true)
    (h : payloadByte s b = .next t) : t.RunsOrFinished := by
  unfold payloadByte payloadStored at h
  split at h <;> cases h
  split <;> exact .inl hb

theorem footerByte_runsOrFinished {b : Byte} (hb : s.status.busy = true)
    (h : footerByte s b = .next t) : t.RunsOrFinished := by
  unfold footerByte footerStored at h
  split at h <;> cases h
  split
  · exact dataCheck_runsOrFinished _
  · exact .inl hb

theorem footerEof_runsOrFinished (s : State) : (footerEof s).RunsOrFinished := by
  unfold footerEof
  split
  · exact finish_runsOrFinished _ _
  · exact dataCheck_runsOrFinished s

theorem execDecode_runsOrFinished (hb : s.status.busy = true) (h : execDecode s = .next t) :
    t.RunsOrFinished := by
  rcases execDecode_cases s with ⟨hfree, -⟩ | ⟨-, -, -, -, e⟩ |
    ⟨-, -, ⟨-, e⟩ | ⟨r, -, e⟩ | ⟨r, -, ⟨-, e⟩ | ⟨-, e⟩ | ⟨-, e⟩⟩ |
      ⟨b, r, -, ⟨-, e⟩ | ⟨-, e⟩ | ⟨-, e⟩⟩⟩
  · exact absurd hb (by simp [hfree])
  all_goals rw [e] at h
  · cases h; exact .inl hb
  · cases h; exact .inl hb
  · cases h; exact finish_runsOrFinished _ _
  · cases h; exact finish_runsOrFinished _ _
  · cases h; exact finish_runsOrFinished _ _
  · cases h; exact footerEof_runsOrFinished s
  · exact headerByte_runsOrFinished (by exact hb) h
  · exact payloadByte_runsOrFinished (by exact hb) h
  · exact footerByte_runsOrFinished (by exact hb) h

theorem headerSent_busy (s : State) : (headerSent s).status.busy = s.status.busy := by
  unfold headerSent
  split <;> rfl

theorem payloadSent_busy (s : State) : (payloadSent s).status.busy = s.status.busy := by
  unfold payloadSent
  split <;> rfl

theorem footerSent_runsOrFinished (hb : s.status.busy = true) :
    (footerSent s).RunsOrFinished := by
  unfold footerSent
  split
  · exact finish_runsOrFinished _ _
  · exact .inl hb

theorem writingStep_runsOrFinished {b : Byte} {onOk : State → State} (hb : s.status.busy = true)
    (hok : ∀ u : State, u.status.busy = true → (onOk u).RunsOrFinished)
    (h : writingStep b onOk s = .next t) : t.RunsOrFinished := by
  rcases writingStep_cases b onOk s with ⟨-, e⟩ | ⟨r, -, e⟩ | ⟨r, -, e⟩ <;> rw [e] at h <;> cases h
  · exact .inl hb
  · exact hok _ hb
  · exact finish_runsOrFinished _ _

theorem encodeStart_runsOrFinished (hb : s.status.busy = true) (h : encodeStart s = .next t) :
    t.RunsOrFinished := by
  rcases encodeStart_cases s with ⟨-, e⟩ | ⟨-, i, -, e⟩ | ⟨-, p, -, e⟩ <;> rw [e] at h <;> cases h
  · exact finish_runsOrFinished _ _
  · exact .inl hb

theorem encodeHeader_runsOrFinished (hb : s.status.busy = true) (h : encodeHeader s = .next t) :
    t.RunsOrFinished := by
  unfold encodeHeader at h
  split at h
  · cases h
  · exact writingStep_runsOrFinished hb (fun u hu => .inl ((headerSent_busy u.countHdr).trans hu)) h

theorem encodePayload_runsOrFinished (hb : s.status.busy = true) (h : encodePayload s = .next t) :
    t.RunsOrFinished := by
  unfold encodePayload at h
  split at h
  · split at h
    · cases h
    · exact writingStep_runsOrFinished hb
        (fun u hu => .inl ((payloadSent_busy u.countPay).trans hu)) h
  · cases h

theorem encodeFooter_runsOrFinished (hb : s.status.busy = true) (h : encodeFooter s = .next t) :
    t.RunsOrFinished := by
  unfold encodeFooter at h
  split at h
  · cases h
  · exact writingStep_runsOrFinished hb
      (fun u hu => footerSent_runsOrFinished (s := u.countFtr) hu) h

theorem execEncode_runsOrFinished (hb : s.status.busy = true) (h : execEncode s = .next t) :
    t.RunsOrFinished := by
  rcases execEncode_cases s with ⟨hfree, -⟩ | ⟨-, -, -, -, -, e⟩ |
    ⟨-, ⟨-, e⟩ | ⟨-, e⟩ | ⟨-, e⟩ | ⟨-, e⟩⟩
  · exact absurd hb (by simp [hfree])
  all_goals rw [e] at h
  · cases h; exact .inl hb
  · exact encodeStart_runsOrFinished hb h
  · exact encodeHeader_runsOrFinished hb h
  · exact encodePayload_runsOrFinished hb h
  · exact encodeFooter_runsOrFinished hb h

theorem crc32cStep_runsOrFinished (h : crc32cStep s = .next t) : t.RunsOrFinished := by
  unfold crc32cStep at h
  split at h
  · cases h; exact finish_runsOrFinished _ _
  · split at h <;> cases h
    exact finish_runsOrFinished _ _

theorem oneStep_runsOrFinished {i : Instr} {effect : State → Result} (hb : s.status.busy = true)
    (heff : effect s = .next t → t.RunsOrFinished) (h : oneStep i effect s = .next t) :
    t.RunsOrFinished := by
  rcases oneStep_cases i effect s with ⟨hfree, -⟩ | ⟨-, -, -, e⟩ | ⟨-, -, e⟩
  · exact absurd hb (by simp [hfree])
  · exact heff (e ▸ h)
  · rw [e] at h; cases h; exact .inl hb

/-- A command makes a busy machine free by finish alone (rule R104). -/
theorem exec_runsOrFinished {i : Instr} (hb : s.status.busy = true) (h : exec i s = .next t) :
    t.RunsOrFinished := by
  cases i
  case crc32c => exact oneStep_runsOrFinished hb crc32cStep_runsOrFinished h
  case decode => exact execDecode_runsOrFinished hb h
  case encode => exact execEncode_runsOrFinished hb h
  all_goals
    refine oneStep_runsOrFinished hb (fun e => ?_) h
    cases e
    exact finish_runsOrFinished _ _

theorem sequencerTurn_runsOrFinished (hb : s.status.busy = true) (h : sequencerTurn s = .next t) :
    t.RunsOrFinished := by
  rcases sequencerTurn_cases s with ⟨hfree, -⟩ | ⟨-, i, -, e⟩ | ⟨-, -, e⟩
  · exact absurd hb (by simp [hfree])
  · exact exec_runsOrFinished hb (e ▸ h)
  · rw [e] at h; cases h

theorem hostAccess_keeps_busy {a : Access} (hb : s.status.busy = true)
    (h : hostAccess s a = .next t) : t.status.busy = true := by
  rw [hostAccess_busy hb h]
  exact hb

end Finish

/-- Settles O10: of the agents only the sequencer, by finish, and reset make a busy machine free. -/
theorem commandEndsOnlyByFinishOrReset : Obligations.CommandEndsOnlyByFinishOrReset := by
  intro s t h hb hfree
  rcases step_cases s with ⟨hag, e⟩ | ⟨ev, rest, hag, e⟩ <;> rw [e] at h
  · obtain ⟨hdone, hq⟩ := (sequencerTurn_runsOrFinished hb h).finished hfree
    exact .inl ⟨hdone, hq, .inl hag⟩
  · cases ev with
    | host a =>
      have hbusy := hostAccess_keeps_busy (s := { s with agenda := rest }) hb h
      exact absurd hbusy (by simp [hfree])
    | sequencer =>
      have hend := sequencerTurn_runsOrFinished (s := { s with agenda := rest }) hb h
      obtain ⟨hdone, hq⟩ := hend.finished hfree
      exact .inl ⟨hdone, hq, .inr ⟨rest, hag⟩⟩
    | reset =>
      cases h
      exact .inr ⟨rfl, rfl, rfl, rest, hag⟩
    | connectInput | connectOutput =>
      cases h
      exact absurd hb (by simpa using hfree)

/-! ## The interrupt (rules R31, R107) -/

/-- DONE is bit 1 of STATUS (rule R16). -/
theorem status_word_bit_one (f : Status) : f.word.getLsbD 1 = f.done := by
  rw [Status.word, BitVec.getLsbD_append, if_neg (Nat.lt_irrefl 1), BitVec.getLsbD_append,
    if_pos Nat.one_pos]
  cases f.done <;> rfl

theorem readReg_ctrl_bit_zero (s : State) : (readReg s .ctrl).getLsbD 0 = s.ie := by
  rw [readReg_ctrl]
  cases s.ie <;> rfl

/-- Settles O46: the two bits as the registers show them, and CTRL's write. -/
theorem irqIsDoneAndEnabled : Obligations.IrqIsDoneAndEnabled := by
  refine ⟨fun s => ?_, fun s t rest v hag hv h => ?_⟩
  · rw [readReg_ctrl_bit_zero, readReg, status_word_bit_one, State.irq]
  · rw [step_writeReg (r := .ctrl) hag Reg.noConfusion rfl] at h
    cases h
    exact (congrArg (s.status.done && ·) hv).trans (Bool.and_false _)

end Sys2Proof.Machine

/-! # exec of a command that is not the one in progress (log entry 7) -/

namespace Sys2Proof.Machine

section Dropped

variable {s : State}

theorem oneStep_dropped {i : Instr} {effect : State → Result} (hb : s.status.busy = true)
    (hother : s.seq ≠ .pure ∨ s.op ≠ opcode i) : oneStep i effect s = .next s.dropCommand := by
  rcases oneStep_cases i effect s with ⟨hfree, -⟩ | ⟨-, hq, ho, -⟩ | ⟨-, -, e⟩
  · exact absurd hb (by simp [hfree])
  · exact absurd ho (hother.resolve_left (not_not_intro hq))
  · exact e

theorem execDecode_dropped (hb : s.status.busy = true)
    (hother : s.seq ≠ .decHdr ∧ s.seq ≠ .decPay ∧ s.seq ≠ .decFtr) :
    execDecode s = .next s.dropCommand := by
  obtain ⟨hhdr, hpay, hftr⟩ := hother
  rcases execDecode_cases s with ⟨hfree, -⟩ | ⟨-, -, -, -, e⟩ | ⟨-, hq, -⟩
  · exact absurd hb (by simp [hfree])
  · exact e
  · exact absurd hq (by simp [hhdr, hpay, hftr])

theorem execEncode_dropped (hb : s.status.busy = true)
    (hother : s.seq ≠ .encStart ∧ s.seq ≠ .encHdr ∧ s.seq ≠ .encPay ∧ s.seq ≠ .encFtr) :
    execEncode s = .next s.dropCommand := by
  obtain ⟨hstart, hhdr, hpay, hftr⟩ := hother
  rcases execEncode_cases s with ⟨hfree, -⟩ | ⟨-, -, -, -, -, e⟩ | ⟨-, hplace⟩
  · exact absurd hb (by simp [hfree])
  · exact e
  · rcases hplace with ⟨hq, -⟩ | ⟨hq, -⟩ | ⟨hq, -⟩ | ⟨hq, -⟩
    · exact absurd hq hstart
    · exact absurd hq hhdr
    · exact absurd hq hpay
    · exact absurd hq hftr

end Dropped

/-- Settles O6: the three shapes of a command (one step, DECODE, ENCODE) each drop what is not in
progress. -/
theorem execOfACommandNotInProgressIsDropped :
    Obligations.ExecOfACommandNotInProgressIsDropped := by
  intro s i hb hone hdec henc
  cases i
  case decode => exact execDecode_dropped hb (hdec rfl)
  case encode => exact execEncode_dropped hb (henc rfl)
  all_goals exact oneStep_dropped hb (hone (by decide))

end Sys2Proof.Machine
